-- ==== Sys2Proof/Word.lean ====
section
/-! DEFINITION. The vector, word and matrix types of the block (spec/00_scope.md R6, R7, R11; spec/30_encoding.md
R62, R66). All dimensions are fixed: K = 4, N = 7, R = 3. A vector of width W is a `BitVec W` whose position 0 is
its most significant bit (R12, R148). -/

namespace Sys2Proof

/-- A message block: 4 bits (R6, R16). -/
abbrev Message := BitVec 4

/-- A 7-bit vector: a codeword, a received vector or a correction mask (R6, R16). -/
abbrev Vec7 := BitVec 7

/-- A syndrome: 3 bits (R61). -/
abbrev Syndrome := BitVec 3

/-- A bit position of a 7-bit vector, 0 to 6 (R11). -/
abbrev Position := Fin 7

/-- The command word `CMD[16:0]` (R62). -/
abbrev Command := BitVec 17

/-- The packed response word `RSP[20:0]` (R66). -/
abbrev ResponseWord := BitVec 21

/-- The generator matrix: 4 rows of 7 entries (R7 W1). -/
abbrev GMatrix := Vector Vec7 4

/-- The parity-check matrix: 3 rows of 7 entries (R7 W1). -/
abbrev HMatrix := Vector Vec7 3

end Sys2Proof
end

