-- ==== Sys2Proof/Syntax.lean ====
section
/-! DEFINITION. The five operations of the block (spec/30_encoding.md R63, R70), one constructor per row of
spec/opcode_table.json. The fields are the fields the table gives the row, in the order of the command word, the
must-be-zero bits included: those bits take no part in selecting the operation and a 1 there faults when the operation
runs (R64, R65), so an instruction carries them. -/

namespace Sys2Proof

/-- One command with a defined operation (R64, R65). -/
inductive Instr where
  /-- `ENC m`, pattern `000 zzzmmmm zzzzzzz` (R90). -/
  | enc (aMbz : BitVec 3) (m : Message) (bMbz : BitVec 7)
  /-- `SYN r`, pattern `001 rrrrrrr zzzzzzz` (R100). -/
  | syn (r : Vec7) (bMbz : BitVec 7)
  /-- `LOC s`, pattern `010 zzzzsss zzzzzzz` (R110). -/
  | loc (aMbz : BitVec 4) (s : Syndrome) (bMbz : BitVec 7)
  /-- `COR r, k`, pattern `011 rrrrrrr kkkkkkk` (R120). -/
  | cor (r : Vec7) (k : Vec7)
  /-- `DEC r`, pattern `100 rrrrrrr zzzzzzz` (R131). -/
  | dec (r : Vec7) (bMbz : BitVec 7)
  deriving DecidableEq, Repr

end Sys2Proof
end

