-- ==== Sys2Proof/WellFormed.lean ====
section
/-! DEFINITION. When an instruction keeps the input contract: every must-be-zero bit of its operand fields is zero
(spec/30_encoding.md R64). An instruction that does not is no undefined term: it runs and its response is the
`ContractViolation` fault response (spec/60_exceptions.md R168). -/

namespace Sys2Proof

/-- The instruction's must-be-zero bits are zero (R64). `COR` has none. -/
def Instr.wellFormed : Instr → Bool
  | .enc aMbz _ bMbz => aMbz == 0 && bMbz == 0
  | .syn _ bMbz => bMbz == 0
  | .loc aMbz _ bMbz => aMbz == 0 && bMbz == 0
  | .cor _ _ => true
  | .dec _ bMbz => bMbz == 0

end Sys2Proof
end

