-- ==== Sys2Proof/Decode.lean ====
section
/-! DEFINITION. Decoding and encoding of the 17-bit command word (spec/30_encoding.md R62 to R65, R69). Decoding is
total: the `op` field alone selects the operation, a reserved `op` is rejected by name. The encoder is written from the
patterns of R65. -/

namespace Sys2Proof

/-- `CMD[16:14]` (R62). -/
def opField (w : Command) : BitVec 3 := w.extractLsb' 14 3

/-- `CMD[13:7]`, the first operand (R62). -/
def aField (w : Command) : BitVec 7 := w.extractLsb' 7 7

/-- `CMD[6:0]`, the second operand (R62). -/
def bField (w : Command) : BitVec 7 := w.extractLsb' 0 7

/-- Why a word is no instruction. -/
inductive DecodeReject where
  /-- `op` is 5, 6 or 7 (R69). -/
  | reservedOp (op : BitVec 3)
  deriving DecidableEq, Repr

/-- The operation map of R63 with the operand layout of R64. -/
def decode (w : Command) : Except DecodeReject Instr :=
  match (opField w).toNat with
  | 0 => .ok (.enc ((aField w).extractLsb' 4 3) ((aField w).extractLsb' 0 4) (bField w))
  | 1 => .ok (.syn (aField w) (bField w))
  | 2 => .ok (.loc ((aField w).extractLsb' 3 4) ((aField w).extractLsb' 0 3) (bField w))
  | 3 => .ok (.cor (aField w) (bField w))
  | 4 => .ok (.dec (aField w) (bField w))
  | _ => .error (.reservedOp (opField w))

/-- The command word of an instruction, by the patterns of R65. -/
def encode : Instr → Command
  | .enc aMbz m bMbz => 0b000#3 ++ aMbz ++ m ++ bMbz
  | .syn r bMbz => 0b001#3 ++ r ++ bMbz
  | .loc aMbz s bMbz => 0b010#3 ++ aMbz ++ s ++ bMbz
  | .cor r k => 0b011#3 ++ r ++ k
  | .dec r bMbz => 0b100#3 ++ r ++ bMbz

/-- The operation code of an instruction (R63). -/
def Instr.op : Instr → BitVec 3
  | .enc _ _ _ => 0
  | .syn _ _ => 1
  | .loc _ _ _ => 2
  | .cor _ _ => 3
  | .dec _ _ => 4

/-- `mask` of every row of the table: the `op` field only (R65). -/
def opMask : Command := 0x1C000#17

/-- `match` of each operation, `op << 14` (R65). -/
def matchWord : Instr → Command
  | .enc _ _ _ => 0x00000#17
  | .syn _ _ => 0x04000#17
  | .loc _ _ _ => 0x08000#17
  | .cor _ _ => 0x0C000#17
  | .dec _ _ => 0x10000#17

/-- `mbz(op)`, the must-be-zero bits of the command (R64). A reserved `op` has no operand layout (R171): no bits. -/
def mbzMask (op : BitVec 3) : Command :=
  match op.toNat with
  | 0 => 0x0387F#17
  | 1 => 0x0007F#17
  | 2 => 0x03C7F#17
  | 3 => 0x00000#17
  | 4 => 0x0007F#17
  | _ => 0x00000#17

/-- The command word whose bits, numbered as spec/opcode_table.json numbers them, are the low `nbits` bits of `w`:
none where a bit above bit 16 is set, since a command has 17 bits (R62) and nothing is truncated silently (R45). -/
def tableWord (nbits w : Nat) : Option Command :=
  if w % 2 ^ nbits < 2 ^ 17 then some (BitVec.ofNat 17 (w % 2 ^ nbits)) else none

/-- The instruction the decoder reads from a word of the opcode table; none where it refuses. -/
def decodeTableWord (nbits w : Nat) : Option Instr :=
  match tableWord nbits w with
  | none => none
  | some cmd => (decode cmd).toOption

end Sys2Proof
end

