-- ==== Sys2Proof/Config.lean ====
section
/-! DEFINITION. What an implementation fixes: the configuration `CFG.G`, `CFG.H` (spec/00_scope.md R7), the type of
the syndrome table built from it (spec/10_state.md R23, spec/20_memory.md R42), and the open parameter `NOISE.draw` of
the channel outside the block (spec/46_channel.md R157). Both open parameters are arguments, never chosen values. -/

namespace Sys2Proof

/-- The configuration of a block (R7). W1, the dimensions and the entries in {0, 1}, holds by type. -/
structure Config where
  G : GMatrix
  H : HMatrix
  deriving DecidableEq, Repr

/-- One entry of the syndrome table: `miss`, or `hit p` with a position 0 to 6 (R23). -/
inductive TableEntry where
  | miss
  | hit (p : Position)
  deriving DecidableEq, Repr

/-- The syndrome table: 8 entries, index 0 to 7 (R23, R41). -/
abbrev Table := Vector TableEntry 8

/-- The channel's `error_probability`: a number in [0,1] (R155). A value outside has no term here (U11). -/
structure Probability where
  value : Rat
  nonneg : 0 ≤ value
  le_one : value ≤ 1

/-- The open parameter `NOISE.draw` (R157): how a random source of some type `Source` and an error probability become
the two draws `flip` and `p` and a new source state. It is subject only to the two end points the source fixes. -/
structure NoiseDraw (Source : Type) where
  draw : Source → Probability → Bool × Position × Source
  flipsNeverAtZero : ∀ src q, q.value = 0 → (draw src q).1 = false
  flipsAlwaysAtOne : ∀ src q, q.value = 1 → (draw src q).1 = true

end Sys2Proof
end

