-- ==== Sys2Proof/Machine/Gf2.lean ====
section
/-! DEFINITION. Vectors, positions and the arithmetic over GF(2) (spec/00_scope.md R11 to R14). -/

namespace Sys2Proof.Machine

/-- `v⟨i⟩`: the bit at position `i`, position 0 on the most significant bit (R11, R12). -/
def bit {w : Nat} (v : BitVec w) (i : Fin w) : Bool := v.getMsbD i.val

/-- The vector with the given bit at each position (R11). -/
def ofPositions : {w : Nat} → (Fin w → Bool) → BitVec w
  | 0, _ => 0#0
  | _ + 1, f => BitVec.cons (f 0) (ofPositions fun i => f i.succ)

/-- The vector as the source's list of bits, position 0 first (R11). -/
def positions {w : Nat} (v : BitVec w) : List Bool := (List.finRange w).map (bit v)

/-- `wt(v)`: the number of 1 bits (R13). -/
def weight {w : Nat} (v : BitVec w) : Nat := (positions v).count true

/-- `e(p)`: 1 at position `p` and 0 elsewhere, the field value `0b1000000 >> p` (R13). -/
def unit (p : Position) : Vec7 := 0b1000000#7 >>> p.val

/-- `v⟨0..3⟩`, the first four bits; on fields `v[6:3]` (R11, R45). -/
def firstFour (v : Vec7) : Message := v.extractLsb' 3 4

/-- The XOR-based dot product of two 7-bit vectors (R13, R14). -/
def dot (u v : Vec7) : Bool :=
  (bit u 0 && bit v 0) ^^ (bit u 1 && bit v 1) ^^ (bit u 2 && bit v 2) ^^ (bit u 3 && bit v 3)
    ^^ (bit u 4 && bit v 4) ^^ (bit u 5 && bit v 5) ^^ (bit u 6 && bit v 6)

/-- `G[i][j]` (R7). -/
def entryG (G : GMatrix) (i : Fin 4) (j : Position) : Bool := bit (G.get i) j

/-- `H[i][j]` (R7). -/
def entryH (H : HMatrix) (i : Fin 3) (j : Position) : Bool := bit (H.get i) j

/-- `vecmat_G(m)`, the message times `G` (R14). -/
def vecmatG (G : GMatrix) (m : Message) : Vec7 :=
  ofPositions fun j =>
    (bit m 0 && entryG G 0 j) ^^ (bit m 1 && entryG G 1 j) ^^ (bit m 2 && entryG G 2 j) ^^ (bit m 3 && entryG G 3 j)

/-- `matvec_H(r)`, `H` times the received vector (R14). -/
def matvecH (H : HMatrix) (r : Vec7) : Syndrome := ofPositions fun i => dot (H.get i) r

/-- `col_H(j)`, column `j` of `H` with row 0 at position 0 (R14). -/
def colH (H : HMatrix) (j : Position) : Syndrome := ofPositions fun i => entryH H i j

end Sys2Proof.Machine
end

