-- ==== Sys2Proof/Machine/Matrices.lean ====
section
/-! DEFINITION. The well-formedness predicate `WF` on a configuration, the default configuration, and the loop that
builds the syndrome table from `H` (spec/00_scope.md R7, R8; spec/10_state.md R23; spec/70_reset_and_hazards.md R192). -/

namespace Sys2Proof.Machine

/-- W2: the left 4 × 4 block of `G` is the identity (R7). -/
abbrev W2 (G : GMatrix) : Prop := ∀ i j : Fin 4, entryG G i (j.castLE (by decide)) = decide (i = j)

/-- W3: every row of `H` times every row of `G` is 0 (R7). -/
abbrev W3 (G : GMatrix) (H : HMatrix) : Prop := ∀ (i : Fin 3) (k : Fin 4), dot (H.get i) (G.get k) = false

/-- W4: the 7 columns of `H` are pairwise distinct and none is 000 (R7). -/
abbrev W4 (H : HMatrix) : Prop :=
  (∀ i j : Position, colH H i = colH H j → i = j) ∧ (∀ j : Position, colH H j ≠ 0)

/-- `WF(G, H)`: W2, W3 and W4; W1 holds by type (R7). -/
abbrev WF (c : Config) : Prop := W2 c.G ∧ W3 c.G c.H ∧ W4 c.H

/-- The default `G` of R8 (the spec's own choice D1, log entry 1). -/
def defaultG : GMatrix := #v[0b1000110#7, 0b0100101#7, 0b0010011#7, 0b0001111#7]

/-- The default `H` of R8 (the spec's own choice D1, log entry 1). -/
def defaultH : HMatrix := #v[0b1101100#7, 0b1011010#7, 0b0111001#7]

/-- The default configuration of R8. -/
def defaultConfig : Config := { G := defaultG, H := defaultH }

/-- One turn of the loop of R23: `T[col_H(i)] <- hit(i)`. The index is `bits_to_value` of the column (R41). -/
def recordColumn (H : HMatrix) (T : Table) (i : Position) : Table :=
  T.set (colH H i).toNat (.hit i) (colH H i).isLt

/-- The table of R23: all `miss`, then columns 0 to 6 recorded in this order. -/
def buildTable (H : HMatrix) : Table :=
  ([0, 1, 2, 3, 4, 5, 6] : List Position).foldl (recordColumn H) (Vector.replicate 8 .miss)

end Sys2Proof.Machine
end

