-- ==== Sys2Proof/Machine/State.lean ====
section
/-! DEFINITION. The machine's state as plain data. What the block holds between two commands is `G`, `H` and `T`, all
three constants (spec/10_state.md R20); nothing else persists in it (R24 to R29). Beside them stand the host's list of
commands not yet presented and the responses returned so far, the observation of the run (spec/00_scope.md R17, R18). -/

namespace Sys2Proof.Machine

/-- The block's two faults (spec/60_exceptions.md R166, U16). A fault is no state and stops nothing: it is the value of
the `fault` field of one response, and the next command is answered as if it had not happened (R174). So no step answers
`Outcome.fault`. -/
inductive Fault where
  /-- Code 1. Raised by `ENC`, `SYN`, `LOC` and `DEC` when a must-be-zero operand bit is 1 (R168). Safe: the spec's own
  fault, taken as the spec says. -/
  | contractViolation
  /-- Code 2. Raised by a command whose `op` is 5, 6 or 7 (R167). Safe: the spec's own fault, taken as the spec says. -/
  | illegalOp
  deriving DecidableEq, Repr

/-- What the model gives no meaning to. No step answers one. -/
inductive Refusal where
  /-- An instruction not modelled yet, by its mnemonic. Raised by an arm of `exec`; no arm is left that does. Safe. -/
  | notModelled (mnemonic : String)
  /-- A configuration that fails `WF`. Raised by `construct` alone: no block is built from it (R193, U4). Safe. -/
  | malformedConfiguration
  deriving DecidableEq, Repr

/-- One response, the seven fields of R66. A field not named when a response is written is 0 (R67). -/
structure Response where
  /-- none: code 0. -/
  fault : Option Fault := none
  /-- The 7-bit result vector: codeword, mask or corrected vector. -/
  res : Vec7 := 0
  /-- The 4-bit data. -/
  data : Message := 0
  /-- 1 when the syndrome is not 000. -/
  errDet : Bool := false
  syn : Syndrome := 0
  /-- 1 when the table gave a position. -/
  hit : Bool := false
  /-- The position found, 0 to 6, or 7 when none. -/
  pos : BitVec 3 := 0
  deriving DecidableEq, Repr

/-- The constants of a block (R20 to R23). No operation writes one. -/
structure Rom where
  G : GMatrix
  H : HMatrix
  T : Table
  deriving DecidableEq, Repr

/-- The machine: the block's constants, the host's commands not yet presented (next one first), and the responses
returned so far (oldest first), which no step reads (R29). -/
structure State where
  rom : Rom
  commands : List Command
  responses : List Response
  deriving DecidableEq, Repr

/-- The constants a configuration gives: `T` is built from `H` (R30, R192). -/
def Rom.ofConfig (c : Config) : Rom := { G := c.G, H := c.H, T := buildTable c.H }

/-- A block of a configuration before its first command: nothing presented, nothing answered (R30, R194). -/
def State.ofConfig (c : Config) : State := { rom := Rom.ofConfig c, commands := [], responses := [] }

/-- The machine right after reset: the block of the default configuration (R8, R30, R190; log entry 1). -/
def State.reset : State := State.ofConfig defaultConfig

end Sys2Proof.Machine
end

