-- ==== Sys2Proof/Machine/Ops.lean ====
section
/-! DEFINITION. The shared operations: taking the next command, reading the table, returning a response, raising a
fault, construction (spec/20_memory.md R41; spec/30_encoding.md R71; spec/60_exceptions.md R170 to R174;
spec/70_reset_and_hazards.md R192, R193). -/

namespace Sys2Proof.Machine

/-- Construction: `G` and `H` are taken from the configuration, `WF` is checked, `T` is built from `H` (R192); a
configuration that is not well-formed is refused (R193). -/
def construct (c : Config) : Host.Outcome State Fault Refusal :=
  if WF c then .next (State.ofConfig c) else .refused .malformedConfiguration

/-- The command the host presents next and the state without it; none when the host presents none. -/
def fetch (s : State) : Option (Command × State) :=
  match s.commands with
  | [] => none
  | w :: rest => some (w, { s with commands := rest })

/-- What the block does when the host presents no command: nothing. It never acts on its own (R17). -/
def idle (s : State) : Host.Outcome State Fault Refusal := .next s

/-- The host presents a command word before the ones it still holds. -/
def State.present (s : State) (w : Command) : State := { s with commands := w :: s.commands }

/-- `T[s]`: the entry at the index `bits_to_value(s)` (R41). No other effect. -/
def readTable (T : Table) (s : Syndrome) : TableEntry := T[s.toNat]'s.isLt

/-- Return one response for the command being answered; nothing else changes (R48). -/
def State.answer (s : State) (r : Response) : State := { s with responses := s.responses ++ [r] }

/-- The fault response: the code, and every other field 0 (R170). -/
def faultResponse (f : Fault) : Response := { fault := some f }

/-- `raise Fault(f)`: the operation ends with the fault response. Nothing is saved, no mode changes, control goes
nowhere (R173); there is nothing to return from (R174). -/
def State.takeFault (s : State) (f : Fault) : State := s.answer (faultResponse f)

/-- The fault a rejected command word raises (R69, R167). -/
def rejectFault : DecodeReject → Fault
  | .reservedOp _ => .illegalOp

/-- Complete an operation: its response when its must-be-zero bits are clear, else `ContractViolation` before anything
is computed (R71, R168). -/
def answerIfClear (mbzClear : Bool) (r : Response) (s : State) : Host.Outcome State Fault Refusal :=
  if mbzClear then .next (s.answer r) else .next (s.takeFault .contractViolation)

end Sys2Proof.Machine
end

