-- ==== Sys2Proof/Machine/Flags.lean ====
section
/-! DEFINITION. The response fields that report on an operation: `err_det`, `hit`, `pos`, and the mask of a table entry
(spec/20_memory.md R42; spec/30_encoding.md R66 to R68; spec/42_locate.md R110). They are outputs of one response, not
retained flags (spec/10_state.md R26). -/

namespace Sys2Proof.Machine

/-- `err_det`: 1 exactly when the syndrome is not 000 (R100). -/
def errDetOf (s : Syndrome) : Bool := s != 0

/-- The value of `pos` when there is no position: 7 (R42). -/
def noPosition : BitVec 3 := 7#3

/-- A position as the 3-bit field `pos` (R42). -/
def posField (p : Position) : BitVec 3 := BitVec.ofNat 3 p.val

/-- The field `hit` of a table entry (R42). -/
def hitOf : TableEntry → Bool
  | .miss => false
  | .hit _ => true

/-- The field `pos` of a table entry: the position, or 7 on a miss (R42). -/
def posOf : TableEntry → BitVec 3
  | .miss => noPosition
  | .hit p => posField p

/-- The correction mask of a table entry: `e(p)`, or zero on a miss (R110, R113). -/
def maskOf : TableEntry → Vec7
  | .miss => 0
  | .hit p => unit p

/-- The abstract `error_position`: `pos` when `hit` is 1, else -1 (R42, R68). -/
def Response.errorPosition (r : Response) : Int := if r.hit then (r.pos.toNat : Int) else -1

end Sys2Proof.Machine
end

