-- ==== Sys2Proof/Machine/Operands.lean ====
section
/-! DEFINITION. The operand forms: where a message and a syndrome sit in the field `a`, and the must-be-zero checks of
each operand layout (spec/30_encoding.md R64; spec/20_memory.md R45). A received vector and a mask fill their field. -/

namespace Sys2Proof.Machine

/-- The message operand `a[3:0]` (R64). -/
def messageOperand (a : BitVec 7) : Message := a.extractLsb' 0 4

/-- The syndrome operand `a[2:0]` (R64). -/
def syndromeOperand (a : BitVec 7) : Syndrome := a.extractLsb' 0 3

/-- Every must-be-zero bit of `a` (some `n` of them) and of `b` is zero: `ENC`, `LOC` (R64). -/
def clearAB {n : Nat} (aMbz : BitVec n) (bMbz : BitVec 7) : Bool := aMbz == 0 && bMbz == 0

/-- Every bit of `b` is zero: `SYN`, `DEC` (R64). -/
def clearB (bMbz : BitVec 7) : Bool := bMbz == 0

end Sys2Proof.Machine
end

