-- ==== Sys2Proof/Machine/Corrector.lean ====
section
/-! DEFINITION. Sub-block 4, the bit-flip corrector: `COR` (spec/43_correct.md R120). -/

namespace Sys2Proof.Machine

/-- What the corrector returns: the vector with the mask XORed onto it, and its first four positions (R120). -/
def corResponse (r k : Vec7) : Response := { res := r ^^^ k, data := firstFour (r ^^^ k) }

/-- `COR r, k` (R120). It has no must-be-zero bit and cannot fault. -/
def execCor (r k : Vec7) (s : State) : Host.Outcome State Fault Refusal :=
  answerIfClear true (corResponse r k) s

end Sys2Proof.Machine
end

