-- ==== Sys2Proof/Machine/Decoder.lean ====
section
/-! DEFINITION. The three stages in one: `DEC` (spec/44_decode.md R130, R131). -/

namespace Sys2Proof.Machine

/-- The response of a decode from its syndrome, `d`, `h`, `q` and the vector `v` it ends with (R131). -/
def decResult (syn : Syndrome) (d h : Bool) (q : BitVec 3) (v : Vec7) : Response :=
  { res := v, data := firstFour v, errDet := d, syn := syn, hit := h, pos := q }

/-- What the decoder returns for a received vector: no error detected; an error located and flipped; or, on a miss at a
non-zero syndrome, the vector uncorrected (R131; the last branch is kept by R113 and D24). -/
def decResponse (rom : Rom) (r : Vec7) : Response :=
  let syn := matvecH rom.H r
  if syn = 0 then decResult syn false false noPosition r
  else
    match readTable rom.T syn with
    | .hit p => decResult syn true true (posField p) (r ^^^ unit p)
    | .miss => decResult syn true false noPosition r

/-- `DEC r` (R131). -/
def execDec (r : Vec7) (bMbz : BitVec 7) (s : State) : Host.Outcome State Fault Refusal :=
  answerIfClear (clearB bMbz) (decResponse s.rom r) s

end Sys2Proof.Machine
end

