-- ==== Sys2Proof/Machine/Encoder.lean ====
section
/-! DEFINITION. Sub-block 1, the encoder: `ENC` (spec/40_encode.md R90). -/

namespace Sys2Proof.Machine

/-- What the encoder returns for a message: the codeword `m · G` (R90). -/
def encResponse (rom : Rom) (m : Message) : Response := { res := vecmatG rom.G m }

/-- `ENC m` (R90). -/
def execEnc (aMbz : BitVec 3) (m : Message) (bMbz : BitVec 7) (s : State) : Host.Outcome State Fault Refusal :=
  answerIfClear (clearAB aMbz bMbz) (encResponse s.rom m) s

end Sys2Proof.Machine
end

