-- ==== Sys2Proof/Machine/Locator.lean ====
section
/-! DEFINITION. Sub-block 3, the error locator: `LOC` (spec/42_locate.md R110, R113). -/

namespace Sys2Proof.Machine

/-- What the locator returns for a syndrome: whether its entry holds a position, the position and the one-hot mask; on
any miss `hit` 0, `pos` 7 and the zero mask (R110, R113). -/
def locResponse (rom : Rom) (syn : Syndrome) : Response :=
  let t := readTable rom.T syn
  { res := maskOf t, hit := hitOf t, pos := posOf t }

/-- `LOC s` (R110). -/
def execLoc (aMbz : BitVec 4) (syn : Syndrome) (bMbz : BitVec 7) (s : State) : Host.Outcome State Fault Refusal :=
  answerIfClear (clearAB aMbz bMbz) (locResponse s.rom syn) s

end Sys2Proof.Machine
end

