-- ==== Sys2Proof/Machine/Syndrome.lean ====
section
/-! DEFINITION. Sub-block 2, the syndrome calculator: `SYN` (spec/41_syndrome.md R100). -/

namespace Sys2Proof.Machine

/-- What the syndrome calculator returns for a received vector: the syndrome and whether it is non-zero (R100). -/
def synResponse (rom : Rom) (r : Vec7) : Response :=
  { errDet := errDetOf (matvecH rom.H r), syn := matvecH rom.H r }

/-- `SYN r` (R100). -/
def execSyn (r : Vec7) (bMbz : BitVec 7) (s : State) : Host.Outcome State Fault Refusal :=
  answerIfClear (clearB bMbz) (synResponse s.rom r) s

end Sys2Proof.Machine
end

