-- ==== Sys2Proof/Machine/Dispatch.lean ====
section
/-! DEFINITION. One arm per operation (spec/30_encoding.md R63, R70). -/

namespace Sys2Proof.Machine

def exec (i : Instr) (s : State) : Host.Outcome State Fault Refusal :=
  match i with
  | .enc aMbz m bMbz => Sys2Proof.Machine.execEnc aMbz m bMbz s
  | .syn r bMbz => Sys2Proof.Machine.execSyn r bMbz s
  | .loc aMbz syn bMbz => Sys2Proof.Machine.execLoc aMbz syn bMbz s
  | .cor r k => Sys2Proof.Machine.execCor r k s
  | .dec r bMbz => Sys2Proof.Machine.execDec r bMbz s

end Sys2Proof.Machine
end

