-- ==== Sys2Proof/Machine/Answer.lean ====
section
/-! DEFINITION. Answering one command word: decode it, then run the operation or raise the fault of a word that is none
(spec/30_encoding.md R69, R71; spec/60_exceptions.md R167, R171). -/

namespace Sys2Proof.Machine

/-- Answer the command word `w`. A reserved `op` raises its fault whatever the operands hold (R69). -/
def answerCommand (w : Command) (s : State) : Host.Outcome State Fault Refusal :=
  match decode w with
  | .ok i => exec i s
  | .error e => .next (s.takeFault (rejectFault e))

/-- The command word of a table word: its low 17 bits, a command having 17 bits (R62; log entry 14). -/
def commandOfTableWord (nbits w : Nat) : Command := BitVec.ofNat 17 (w % 2 ^ nbits)

end Sys2Proof.Machine
end

