-- ==== Sys2Proof/Machine/Step.lean ====
section
/-! DEFINITION. One step: the host presents its next command and obtains the response (spec/00_scope.md R17, R18;
spec/30_encoding.md R71; spec/70_reset_and_hazards.md R196). The block never acts on its own: with no command presented
a step changes nothing (log entry 6). -/

namespace Sys2Proof.Machine

/-- One atomic step per command (R196). -/
def step (s : State) : Host.Outcome State Fault Refusal :=
  match fetch s with
  | none => idle s
  | some (w, s') => answerCommand w s'

/-- The state in which the host presents the table word `w` next (log entries 4 and 14). -/
def State.withFetchWord (s : State) (nbits w : Nat) : State := s.present (commandOfTableWord nbits w)

end Sys2Proof.Machine
end

