-- ==== Sys2Proof/Machine/Respond.lean ====
section
/-! DEFINITION. The response function `respond : CFG × CMD -> RSP` as the spec's pseudocode writes it, on the fields of
the raw command word with the masks `mbz(op)` (spec/30_encoding.md R71), and the response word `RSP[20:0]` (R66). The
step does not call `respond`: that a step answers exactly `respond` is a statement. -/

namespace Sys2Proof.Machine

/-- The response to any of the 131072 command words (R69, R71): `IllegalOp` is tested first, `ContractViolation` second
(R171). -/
def respond (rom : Rom) (cmd : Command) : Response :=
  let op := opField cmd
  let a := aField cmd
  let b := bField cmd
  if op.toNat ≥ 5 then faultResponse .illegalOp
  else if cmd &&& mbzMask op ≠ 0 then faultResponse .contractViolation
  else
    match op.toNat with
    | 0 => encResponse rom (messageOperand a)
    | 1 => synResponse rom a
    | 2 => locResponse rom (syndromeOperand a)
    | 3 => corResponse a b
    | _ => decResponse rom a

/-- The code of the field `fault` (R66). -/
def faultCode : Option Fault → BitVec 2
  | none => 0
  | some .contractViolation => 1
  | some .illegalOp => 2

/-- `RSP = {fault, res, data, err_det, syn, hit, pos}` (R66). -/
def Response.pack (r : Response) : ResponseWord :=
  faultCode r.fault ++ r.res ++ r.data ++ BitVec.ofBool r.errDet ++ r.syn ++ BitVec.ofBool r.hit ++ r.pos

/-- The fault a code of the field `fault` names; none for code 3, which is never produced (R66, U16). -/
def faultOfCode (c : BitVec 2) : Option (Option Fault) :=
  match c.toNat with
  | 0 => some none
  | 1 => some (some .contractViolation)
  | 2 => some (some .illegalOp)
  | _ => none

/-- Reading the seven fields of a response word, as the host does; none for the code 3 (R66). -/
def unpack (w : ResponseWord) : Option Response :=
  match faultOfCode (w.extractLsb' 19 2) with
  | none => none
  | some f =>
    some
      { fault := f
        res := w.extractLsb' 12 7
        data := w.extractLsb' 8 4
        errDet := w.getLsbD 7
        syn := w.extractLsb' 4 3
        hit := w.getLsbD 3
        pos := w.extractLsb' 0 3 }

end Sys2Proof.Machine
end

