-- ==== Sys2Proof/Machine/Conversions.lean ====
section
/-! DEFINITION. The host-side functions outside the block: the conversions between values and bit sequences, byte
packing, and the reading of a response as the source's result tuple (spec/45_conversions.md R145, R146, R150;
spec/20_memory.md R44; spec/30_encoding.md R68; spec/60_exceptions.md R170). -/

namespace Sys2Proof.Machine

/-- `value_to_bits(value, width)`: position `i` is `floor(value / 2^(width-1-i)) mod 2` (R145). -/
def valueToBits (value width : Nat) : List Bool :=
  (List.range width).map fun i => value / 2 ^ (width - 1 - i) % 2 == 1

/-- `bits_to_value(bits)`: from the left, `x <- 2*x + v⟨i⟩` (R146). -/
def bitsToValue (bits : List Bool) : Nat := bits.foldl (fun x b => 2 * x + b.toNat) 0

/-- The two message blocks of a byte, high nibble first (R44, R150). -/
def splitByte (byte : BitVec 8) : Message × Message := (byte.extractLsb' 4 4, byte.extractLsb' 0 4)

/-- The byte of two decoded blocks in the same order (R150). -/
def joinByte (d1 d2 : Message) : BitVec 8 := d1 ++ d2

/-- The source's decode result (R130). -/
structure DecodeResult where
  decodedData : Message
  errorDetected : Bool
  syndrome : Syndrome
  errorPosition : Int
  deriving DecidableEq, Repr

/-- The response of a decode read as the source's tuple (R68). The host tests `fault` first: a fault response holds no
result (R170). -/
def Response.decodeResult (r : Response) : Option DecodeResult :=
  match r.fault with
  | some _ => none
  | none =>
    some
      { decodedData := r.data
        errorDetected := r.errDet
        syndrome := r.syn
        errorPosition := r.errorPosition }

end Sys2Proof.Machine
end

