-- ==== Sys2Proof/Machine/Assembler.lean ====
section
/-! DEFINITION. The textual form of a command, a host-side notation (spec/30_encoding.md R73): one line to one command
word, on lists of characters, and the line of a command. What the spec leaves open of the form (blanks, the case of a
hexadecimal digit) is in log entry 13. -/

namespace Sys2Proof.Machine

/-- What one line holds. -/
inductive Line where
  /-- Nothing but blanks and a comment. -/
  | blank
  /-- A mnemonic and its operands. -/
  | command (i : Instr)
  /-- `.cmd 0xHHHHH`, a raw command word. -/
  | raw (w : Command)
  deriving DecidableEq, Repr

/-- The command word a line stands for, if any. -/
def Line.word : Line → Option Command
  | .blank => none
  | .command i => some (encode i)
  | .raw w => some w

/-- A blank: space or tab. -/
def isBlank (c : Char) : Bool := c == ' ' || c == '\t'

/-- A text without the blanks at its two ends. -/
def trim (cs : List Char) : List Char := ((cs.dropWhile isBlank).reverse.dropWhile isBlank).reverse

/-- A text without its comment: `#` starts one (R73). -/
def stripComment (cs : List Char) : List Char := cs.takeWhile (· != '#')

/-- The bits of a text of `0` and `1` only. -/
def bitsOfText : List Char → Option (List Bool)
  | [] => some []
  | '0' :: cs => (bitsOfText cs).map (false :: ·)
  | '1' :: cs => (bitsOfText cs).map (true :: ·)
  | _ :: _ => none

/-- An operand: a string of exactly `w` characters `0` or `1`, position 0 leftmost (R73). -/
def parseOperand (w : Nat) (cs : List Char) : Option (BitVec w) :=
  match bitsOfText cs with
  | none => none
  | some bs => if bs.length = w then some (BitVec.ofNat w (bitsToValue bs)) else none

/-- The value of a hexadecimal digit. -/
def hexDigit (c : Char) : Option Nat :=
  if '0'.toNat ≤ c.toNat ∧ c.toNat ≤ '9'.toNat then some (c.toNat - '0'.toNat)
  else if 'A'.toNat ≤ c.toNat ∧ c.toNat ≤ 'F'.toNat then some (c.toNat - 'A'.toNat + 10)
  else if 'a'.toNat ≤ c.toNat ∧ c.toNat ≤ 'f'.toNat then some (c.toNat - 'a'.toNat + 10)
  else none

/-- The value of a text of hexadecimal digits, the most significant first, on top of `acc`. -/
def hexValue (acc : Nat) : List Char → Option Nat
  | [] => some acc
  | c :: cs =>
    match hexDigit c with
    | none => none
    | some d => hexValue (16 * acc + d) cs

/-- A raw command word `0xHHHHH`: five digits and a value of 17 bits (R62, R73). -/
def parseRaw : List Char → Option Command
  | '0' :: 'x' :: digits =>
    if digits.length = 5 then
      match hexValue 0 digits with
      | none => none
      | some v => if v < 2 ^ 17 then some (BitVec.ofNat 17 v) else none
    else none
  | _ => none

/-- The two operands of `COR`, separated by a comma (R73). -/
def parseTwoOperands (cs : List Char) : Option (Vec7 × Vec7) :=
  match cs.dropWhile (· != ',') with
  | ',' :: second =>
    match parseOperand 7 (trim (cs.takeWhile (· != ','))), parseOperand 7 (trim second) with
    | some r, some k => some (r, k)
    | _, _ => none
  | _ => none

/-- A mnemonic and its operand text. The must-be-zero bits are always written zero (R73). -/
def parseWords (mnemonic operands : List Char) : Option Line :=
  if mnemonic = ['E', 'N', 'C'] then (parseOperand 4 operands).map fun m => .command (.enc 0 m 0)
  else if mnemonic = ['S', 'Y', 'N'] then (parseOperand 7 operands).map fun r => .command (.syn r 0)
  else if mnemonic = ['L', 'O', 'C'] then (parseOperand 3 operands).map fun s => .command (.loc 0 s 0)
  else if mnemonic = ['C', 'O', 'R'] then (parseTwoOperands operands).map fun rk => .command (.cor rk.1 rk.2)
  else if mnemonic = ['D', 'E', 'C'] then (parseOperand 7 operands).map fun r => .command (.dec r 0)
  else if mnemonic = ['.', 'c', 'm', 'd'] then (parseRaw operands).map .raw
  else none

/-- One line of text (R73). None is an assembler error, not a command. -/
def parseLine (cs : List Char) : Option Line :=
  match trim (stripComment cs) with
  | [] => some .blank
  | c :: rest =>
    parseWords ((c :: rest).takeWhile (!isBlank ·)) (trim ((c :: rest).dropWhile (!isBlank ·)))

/-- A vector as text, position 0 leftmost (R11, R73). -/
def operandText {w : Nat} (v : BitVec w) : List Char := (positions v).map fun b => if b then '1' else '0'

/-- The line of an instruction in the form of R73. The must-be-zero bits have no text. -/
def instrText : Instr → List Char
  | .enc _ m _ => ['E', 'N', 'C', ' '] ++ operandText m
  | .syn r _ => ['S', 'Y', 'N', ' '] ++ operandText r
  | .loc _ s _ => ['L', 'O', 'C', ' '] ++ operandText s
  | .cor r k => ['C', 'O', 'R', ' '] ++ operandText r ++ [',', ' '] ++ operandText k
  | .dec r _ => ['D', 'E', 'C', ' '] ++ operandText r

end Sys2Proof.Machine
end

