-- ==== Sys2Proof/Machine/Channel.lean ====
section
/-! DEFINITION. The noisy channel, an agent outside the block that stands between an `ENC` response and a `DEC` command
(spec/46_channel.md R155 to R157; spec/00_scope.md R17). -/

namespace Sys2Proof.Machine

/-- `NOISE(c, flip, p)`: the channel as a function of its two draws (R156). -/
def noise (c : Vec7) (flip : Bool) (p : Position) : Vec7 := if flip then c ^^^ unit p else c

/-- `simulate_noise` for a source of randomness, an error probability and a way of drawing (R155, R157): the noisy copy
and the new source state. -/
def simulateNoise {Source : Type} (d : NoiseDraw Source) (src : Source) (q : Probability) (c : Vec7) : Vec7 × Source :=
  let draws := d.draw src q
  (noise c draws.1 draws.2.1, draws.2.2)

/-- The `DEC` command the host presents when it receives the codeword of an `ENC` response through the channel (R17). -/
def transmit (sent : Response) (flip : Bool) (p : Position) : Command := encode (.dec (noise sent.res flip p) 0)

end Sys2Proof.Machine
end

