-- ==== Sys2Proof/Safety.lean ====
section
/-! DEFINITION. The terms claims use: a block that was built, a response of a legal form, the invariant of the machine,
a run in which nothing went wrong, valid codewords and distance (spec/00_scope.md R7, R16, R19; spec/10_state.md R30;
spec/30_encoding.md R66 to R68; spec/60_exceptions.md R166, R170). -/

namespace Sys2Proof.Machine

/-- The constants of a block that exists: a well-formed configuration, and the table its `H` gives (R30, R192, R193). -/
abbrev Rom.Built (rom : Rom) : Prop := WF { G := rom.G, H := rom.H } ∧ rom.T = buildTable rom.H

/-- The forms a response can have, whatever the command: a fault response holds nothing else (R170), `err_det` says
whether `syn` is not 000, a hit names a position 0 to 6, and without a hit there is no position (R66, R67, R68). -/
abbrev Response.Legal (r : Response) : Prop :=
  (r.fault ≠ none → r = { fault := r.fault }) ∧
  r.errDet = (r.syn != 0) ∧
  (r.hit = true → r.pos.toNat ≤ 6) ∧
  (r.hit = false → r.pos = 0 ∨ r.pos = 7)

/-- The invariant of the machine: its block was built, and every response of the run is of a legal form. -/
abbrev State.Inv (s : State) : Prop := s.rom.Built ∧ ∀ r ∈ s.responses, r.Legal

/-- A run in which nothing went wrong: no response has `fault != 0` (R166). -/
abbrev State.Safe (s : State) : Prop := ∀ r ∈ s.responses, r.fault = none

/-- A valid codeword: one of the 16 values `vecmat_G(m)` (R16). -/
abbrev ValidCodeword (G : GMatrix) (c : Vec7) : Prop := ∃ m : Message, vecmatG G m = c

/-- The response the block gives to the command of an instruction (R50, R71). -/
def answerTo (rom : Rom) (i : Instr) : Response := respond rom (encode i)

/-- In how many positions two vectors differ. -/
def distance (u v : Vec7) : Nat := weight (u ^^^ v)

end Sys2Proof.Machine
end

