-- ==== Sys2Proof/Certificates/Slice0/Obligations.lean ====
section
/-! DEFINITION. The statements for the provers, from the numbered rules of spec/. A statement about a state or a `rom`
holds for every configuration, not for the default one alone; where a law needs a block that was built, that is the
premise `Rom.Built` (WF and the table of `H`), which is part of the invariant every step keeps. -/

open Sys2Proof Sys2Proof.Machine

/-! ## Reset, construction, the invariant -/

/-- R8, R21 to R23, R30: the default constants at reset (the spec's own choice D1, log entry 1), and nothing presented
or answered (log entries 4 and 5). -/
def Obligations.ResetHoldsTheDefaultConstants : Prop :=
  State.reset.rom.G = #v[0b1000110#7, 0b0100101#7, 0b0010011#7, 0b0001111#7] ∧
  State.reset.rom.H = #v[0b1101100#7, 0b1011010#7, 0b0111001#7] ∧
  State.reset.rom.T = #v[.miss, .hit 6, .hit 5, .hit 2, .hit 4, .hit 1, .hit 0, .hit 3] ∧
  State.reset.commands = [] ∧ State.reset.responses = []

/-- R8, R193: the default configuration passes `WF`, so the machine at reset meets the invariant. -/
def Obligations.ResetMeetsTheInvariant : Prop := State.reset.Inv

/-- R20, R30, R66, R67, R170: from every state whose block was built and whose responses are of a legal form, a step
gives such a state. -/
def Obligations.EveryStepKeepsTheInvariant : Prop :=
  ∀ s t : State, s.Inv → step s = .next t → t.Inv

/-- R192, R23: construction takes `G` and `H`, checks `WF`, and records each column index under its column value; an
index no column has stays a miss. The refusal of what is not well-formed is the spec's R193 (its decision D13), read as
the named refusal of log entry 10; that nothing is presented or answered yet is the model's choice (log entries 4, 5). -/
def Obligations.ConstructionBuildsWellFormedBlocksOnly : Prop :=
  ∀ c : Config,
    (WF c → ∃ s : State, construct c = .next s ∧ s.rom.G = c.G ∧ s.rom.H = c.H ∧
      (∀ i : Position, readTable s.rom.T (colH c.H i) = .hit i) ∧
      (∀ syn : Syndrome, (∀ i : Position, colH c.H i ≠ syn) → readTable s.rom.T syn = .miss) ∧
      s.commands = [] ∧ s.responses = [] ∧ s.Inv) ∧
    (¬ WF c → construct c = .refused .malformedConfiguration)

/-! ## The laws of every well-formed configuration -/

/-- R19 (a) to (f), which the spec derives from R7 and R14. -/
def Obligations.LawsOfEveryWellFormedConfiguration : Prop :=
  ∀ c : Config, WF c →
    (∀ m, matvecH c.H (vecmatG c.G m) = 0) ∧
    (∀ r d, matvecH c.H (r ^^^ d) = matvecH c.H r ^^^ matvecH c.H d) ∧
    (∀ p, matvecH c.H (unit p) = colH c.H p) ∧
    (∀ m p, matvecH c.H (vecmatG c.G m ^^^ unit p) = colH c.H p ∧ colH c.H p ≠ 0) ∧
    (∀ p q, colH c.H p = colH c.H q → p = q) ∧
    (∀ m, firstFour (vecmatG c.G m) = m) ∧
    (∀ m n, m ≠ n → 3 ≤ distance (vecmatG c.G m) (vecmatG c.G n))

/-- R9, which the spec derives by enumeration: the right block of a well-formed `G` has rows of weight 2 or 3, pairwise
different, and `H` is fixed by that block and its own last three columns, which are independent. -/
def Obligations.ParityBlockOfAWellFormedConfiguration : Prop :=
  ∀ c : Config, WF c →
    (∀ k : Fin 4, 2 ≤ weight ((c.G.get k).extractLsb' 0 3)) ∧
    (∀ k l : Fin 4, (c.G.get k).extractLsb' 0 3 = (c.G.get l).extractLsb' 0 3 → k = l) ∧
    (∀ k : Fin 4, colH c.H (k.castLE (by decide)) =
      (if entryG c.G k 4 then colH c.H 4 else 0) ^^^ (if entryG c.G k 5 then colH c.H 5 else 0) ^^^
        (if entryG c.G k 6 then colH c.H 6 else 0)) ∧
    colH c.H 4 ^^^ colH c.H 5 ^^^ colH c.H 6 ≠ 0 ∧ colH c.H 4 ^^^ colH c.H 5 ≠ 0 ∧
    colH c.H 4 ^^^ colH c.H 6 ≠ 0 ∧ colH c.H 5 ^^^ colH c.H 6 ≠ 0

/-- R9, which the spec derives by enumeration: two built blocks with the same `G` differ, on an encode or a decode, in
the syndrome at most, never in the position found or the data returned. -/
def Obligations.MixingTheRowsOfHChangesOnlyTheSyndrome : Prop :=
  ∀ x y : Rom, x.Built → y.Built → x.G = y.G →
    (∀ m : Message, answerTo x (.enc 0 m 0) = answerTo y (.enc 0 m 0)) ∧
    (∀ r : Vec7, { answerTo x (.dec r 0) with syn := 0 } = { answerTo y (.dec r 0) with syn := 0 })

/-! ## ENC -/

/-- R90 (encoding D5, fields not defined D10): on every message, in every state, `ENC` completes; position `j` of `res`
is the XOR-based dot product of the message with column `j` of `G`; every other field is 0; nothing else changes. -/
def Obligations.EncAnswersTheMessageTimesG : Prop :=
  ∀ (s : State) (m : Message), ∃ c : Vec7,
    (∀ j : Position, bit c j =
      ((bit m 0 && entryG s.rom.G 0 j) ^^ (bit m 1 && entryG s.rom.G 1 j) ^^ (bit m 2 && entryG s.rom.G 2 j) ^^
        (bit m 3 && entryG s.rom.G 3 j))) ∧
    exec (.enc 0 m 0) s = .next { s with responses := s.responses ++
      [{ fault := none, res := c, data := 0, errDet := false, syn := 0, hit := false, pos := 0 }] }

/-- R91 (a), (b), (c), (d), (f), which the spec derives from R90 and R7. -/
def Obligations.EncIsLinearSystematicAndInjective : Prop :=
  ∀ rom : Rom, rom.Built →
    (∀ m n, (answerTo rom (.enc 0 (m ^^^ n) 0)).res =
      (answerTo rom (.enc 0 m 0)).res ^^^ (answerTo rom (.enc 0 n 0)).res) ∧
    (answerTo rom (.enc 0 0 0)).res = 0 ∧
    (∀ m, firstFour (answerTo rom (.enc 0 m 0)).res = m) ∧
    (∀ m n, (answerTo rom (.enc 0 m 0)).res = (answerTo rom (.enc 0 n 0)).res → m = n) ∧
    (∀ m, matvecH rom.H (answerTo rom (.enc 0 m 0)).res = 0) ∧
    (answerTo rom (.enc 0 0b1000#4 0)).res = rom.G.get 0 ∧ (answerTo rom (.enc 0 0b0100#4 0)).res = rom.G.get 1 ∧
    (answerTo rom (.enc 0 0b0010#4 0)).res = rom.G.get 2 ∧ (answerTo rom (.enc 0 0b0001#4 0)).res = rom.G.get 3

/-- R92: the complete function of `ENC` in the default configuration (D1, log entry 1). -/
def Obligations.EncTableOfTheDefaultConfiguration : Prop :=
  ∀ m : Message, (answerTo State.reset.rom (.enc 0 m 0)).res =
    (#v[0b0000000#7, 0b0001111#7, 0b0010011#7, 0b0011100#7, 0b0100101#7, 0b0101010#7, 0b0110110#7, 0b0111001#7,
        0b1000110#7, 0b1001001#7, 0b1010101#7, 0b1011010#7, 0b1100011#7, 0b1101100#7, 0b1110000#7,
        0b1111111#7]).get m.toFin

/-! ## SYN -/

/-- R100 (encoding D5, order of the syndrome D3, fields D10, D16): on every received vector, in every state, `SYN`
completes; position `i` of `syn` is row `i` of `H` times the vector; `err_det` is 1 exactly when `syn` is not 000. -/
def Obligations.SynAnswersHTimesTheReceivedVector : Prop :=
  ∀ (s : State) (r : Vec7), ∃ syn : Syndrome,
    (∀ i : Fin 3, bit syn i =
      ((entryH s.rom.H i 0 && bit r 0) ^^ (entryH s.rom.H i 1 && bit r 1) ^^ (entryH s.rom.H i 2 && bit r 2) ^^
        (entryH s.rom.H i 3 && bit r 3) ^^ (entryH s.rom.H i 4 && bit r 4) ^^ (entryH s.rom.H i 5 && bit r 5) ^^
        (entryH s.rom.H i 6 && bit r 6))) ∧
    exec (.syn r 0) s = .next { s with responses := s.responses ++
      [{ fault := none, res := 0, data := 0, errDet := decide (syn ≠ 0), syn := syn, hit := false, pos := 0 }] }

/-- R101 (a), (b), (c), (e), which the spec derives from R100, R7 and R19: the syndrome is linear, is zero exactly on
the valid codewords, names a single flip, and makes a double flip look like one flip at a third position. -/
def Obligations.SynIsZeroExactlyOnValidCodewords : Prop :=
  ∀ rom : Rom, rom.Built →
    (∀ r d, (answerTo rom (.syn (r ^^^ d) 0)).syn = (answerTo rom (.syn r 0)).syn ^^^ (answerTo rom (.syn d 0)).syn) ∧
    (∀ r, (answerTo rom (.syn r 0)).syn = 0 ↔ ValidCodeword rom.G r) ∧
    (∀ c p, ValidCodeword rom.G c → (answerTo rom (.syn (c ^^^ unit p) 0)).syn = colH rom.H p) ∧
    (∀ c p q, ValidCodeword rom.G c → p ≠ q →
      ∃ t : Position, t ≠ p ∧ t ≠ q ∧ (answerTo rom (.syn (c ^^^ unit p ^^^ unit q) 0)).syn = colH rom.H t ∧
        ∀ u, colH rom.H u = colH rom.H t → u = t)

/-- R102: `err_det` 0 means a valid codeword and nothing more: every codeword is three flips away from another one,
whose decode detects nothing and returns other data; `err_det` 1 means no valid codeword, after one flip as after two. -/
def Obligations.ErrDetSaysOnlyWhetherTheVectorIsACodeword : Prop :=
  ∀ rom : Rom, rom.Built →
    (∀ r : Vec7, (answerTo rom (.syn r 0)).errDet = false ↔ ValidCodeword rom.G r) ∧
    (∀ r : Vec7, (answerTo rom (.dec r 0)).errDet = false ↔ ValidCodeword rom.G r) ∧
    (∀ m : Message, ∃ p q t : Position, p ≠ q ∧ q ≠ t ∧ p ≠ t ∧
      (answerTo rom (.dec (vecmatG rom.G m ^^^ unit p ^^^ unit q ^^^ unit t) 0)).errDet = false ∧
      (answerTo rom (.dec (vecmatG rom.G m ^^^ unit p ^^^ unit q ^^^ unit t) 0)).data ≠ m) ∧
    (∀ (m : Message) (p q : Position), p ≠ q →
      (answerTo rom (.dec (vecmatG rom.G m ^^^ unit p) 0)).errDet = true ∧
      (answerTo rom (.dec (vecmatG rom.G m ^^^ unit p ^^^ unit q) 0)).errDet = true)

/-! ## LOC -/

/-- R110 (encoding D5, index D3, sentinel D9, D14): on every syndrome, in every state, `LOC` completes with what the
entry of `T` holds: its position and one-hot mask on a hit, 7 and the zero mask on a miss. -/
def Obligations.LocAnswersTheTableEntry : Prop :=
  ∀ (s : State) (syn : Syndrome),
    (∀ p : Position, readTable s.rom.T syn = .hit p →
      exec (.loc 0 syn 0) s = .next { s with responses := s.responses ++
        [{ fault := none, res := 0b1000000#7 >>> p.val, data := 0, errDet := false, syn := 0, hit := true,
           pos := BitVec.ofNat 3 p.val }] }) ∧
    (readTable s.rom.T syn = .miss →
      exec (.loc 0 syn 0) s = .next { s with responses := s.responses ++
        [{ fault := none, res := 0, data := 0, errDet := false, syn := 0, hit := false, pos := 7 }] })

/-- R112 (a) to (d), which the spec derives from R110, R23 and R7. -/
def Obligations.LocInvertsTheColumnsOfH : Prop :=
  ∀ rom : Rom, rom.Built →
    (∀ p : Position, (answerTo rom (.loc 0 (colH rom.H p) 0)).hit = true ∧
      (answerTo rom (.loc 0 (colH rom.H p) 0)).pos.toNat = p.val) ∧
    (∀ syn, (answerTo rom (.loc 0 syn 0)).hit = true ↔ syn ≠ 0) ∧
    (∀ syn, weight (answerTo rom (.loc 0 syn 0)).res = (answerTo rom (.loc 0 syn 0)).hit.toNat) ∧
    (∀ syn, matvecH rom.H (answerTo rom (.loc 0 syn 0)).res =
      if (answerTo rom (.loc 0 syn 0)).hit then syn else 0)

/-- R111: the complete function of `LOC` in the default configuration, as response words (D1, log entry 1). -/
def Obligations.LocTableOfTheDefaultConfiguration : Prop :=
  ∀ syn : Syndrome, (answerTo State.reset.rom (.loc 0 syn 0)).pack =
    (#v[0x000007#21, 0x00100E#21, 0x00200D#21, 0x01000A#21, 0x00400C#21, 0x020009#21, 0x040008#21,
        0x00800B#21]).get syn.toFin

/-- R113: any miss entry, in any table, gives `hit` 0, `pos` 7 and the zero mask; a decode that meets one at a non-zero
syndrome leaves the vector uncorrected and reports the error with position -1; in a built block only 000 misses. -/
def Obligations.AMissIsAnsweredAndNeverCrashes : Prop :=
  (∀ (s : State) (syn : Syndrome), readTable s.rom.T syn = .miss →
    exec (.loc 0 syn 0) s = .next { s with responses := s.responses ++
      [{ fault := none, res := 0, data := 0, errDet := false, syn := 0, hit := false, pos := 7 }] }) ∧
  (∀ (s : State) (r : Vec7), matvecH s.rom.H r ≠ 0 → readTable s.rom.T (matvecH s.rom.H r) = .miss →
    ∃ rsp : Response, exec (.dec r 0) s = .next { s with responses := s.responses ++ [rsp] } ∧
      rsp = { fault := none, res := r, data := firstFour r, errDet := true, syn := matvecH s.rom.H r, hit := false,
              pos := 7 } ∧
      rsp.errorPosition = -1) ∧
  (∀ (rom : Rom) (syn : Syndrome), rom.Built → (readTable rom.T syn = .miss ↔ syn = 0))

/-! ## COR -/

/-- R120 (encoding D5, any mask D15, fields D10, D16): on every pair, in every state, `COR` completes; `res` is the XOR
position by position, `data` its first four positions. -/
def Obligations.CorAnswersTheXorWithTheMask : Prop :=
  ∀ (s : State) (r k : Vec7), ∃ (v : Vec7) (d : Message),
    (∀ i : Position, bit v i = (bit r i ^^ bit k i)) ∧
    (∀ i : Fin 4, bit d i = bit v (i.castLE (by decide))) ∧
    exec (.cor r k) s = .next { s with responses := s.responses ++
      [{ fault := none, res := v, data := d, errDet := false, syn := 0, hit := false, pos := 0 }] }

/-- R121 (a), (b), (c), which the spec derives from R120 and R19; and `COR` twice with one mask gives the vector back
(R120). -/
def Obligations.CorFlipsExactlyTheMask : Prop :=
  (∀ rom r k, (answerTo rom (.cor r k)).res ^^^ r = k ∧
    (answerTo rom (.cor (answerTo rom (.cor r k)).res k)).res = r) ∧
  (∀ (rom : Rom) (r : Vec7) (p : Position),
    (p.val ≤ 3 → (answerTo rom (.cor r (unit p))).data = firstFour r ^^^ (0b1000#4 >>> p.val)) ∧
    (4 ≤ p.val → (answerTo rom (.cor r (unit p))).data = firstFour r)) ∧
  (∀ rom r k, matvecH rom.H (answerTo rom (.cor r k)).res = matvecH rom.H r ^^^ matvecH rom.H k) ∧
  (∀ rom : Rom, rom.Built → ∀ r, (answerTo rom (.loc 0 (matvecH rom.H r) 0)).hit = true →
    matvecH rom.H (answerTo rom (.cor r (answerTo rom (.loc 0 (matvecH rom.H r) 0)).res)).res = 0)

/-! ## DEC -/

/-- R131 (encoding D5, D9, D17), in any block, built or not: on every received vector `DEC` completes, with one of the
three outcomes of the pseudocode. -/
def Obligations.DecAnswersSyndromePositionAndCorrectedVector : Prop :=
  ∀ (s : State) (r : Vec7) (syn : Syndrome),
    (∀ i : Fin 3, bit syn i =
      ((entryH s.rom.H i 0 && bit r 0) ^^ (entryH s.rom.H i 1 && bit r 1) ^^ (entryH s.rom.H i 2 && bit r 2) ^^
        (entryH s.rom.H i 3 && bit r 3) ^^ (entryH s.rom.H i 4 && bit r 4) ^^ (entryH s.rom.H i 5 && bit r 5) ^^
        (entryH s.rom.H i 6 && bit r 6))) →
    (syn = 0 →
      exec (.dec r 0) s = .next { s with responses := s.responses ++
        [{ fault := none, res := r, data := r.extractLsb' 3 4, errDet := false, syn := 0, hit := false, pos := 7 }] }) ∧
    (∀ p : Position, syn ≠ 0 → readTable s.rom.T syn = .hit p →
      exec (.dec r 0) s = .next { s with responses := s.responses ++
        [{ fault := none, res := r ^^^ (0b1000000#7 >>> p.val),
           data := (r ^^^ (0b1000000#7 >>> p.val)).extractLsb' 3 4, errDet := true, syn := syn, hit := true,
           pos := BitVec.ofNat 3 p.val }] }) ∧
    (syn ≠ 0 → readTable s.rom.T syn = .miss →
      exec (.dec r 0) s = .next { s with responses := s.responses ++
        [{ fault := none, res := r, data := r.extractLsb' 3 4, errDet := true, syn := syn, hit := false, pos := 7 }] })

/-- R130: the response of `DEC`, read as the source's result tuple, is the source's decode. In a built block the
syndrome is zero, or is the column of the position found; on a miss at a non-zero syndrome, in any block, the data is
uncorrected. -/
def Obligations.DecIsTheSourcesDecode : Prop :=
  (∀ (rom : Rom) (r : Vec7), matvecH rom.H r = 0 →
    (answerTo rom (.dec r 0)).decodeResult =
      some { decodedData := firstFour r, errorDetected := false, syndrome := 0, errorPosition := -1 }) ∧
  (∀ (rom : Rom) (r : Vec7), rom.Built → matvecH rom.H r ≠ 0 →
    ∃ p : Position, colH rom.H p = matvecH rom.H r ∧ readTable rom.T (matvecH rom.H r) = .hit p ∧
      (answerTo rom (.dec r 0)).decodeResult =
        some { decodedData := firstFour (r ^^^ unit p), errorDetected := true, syndrome := matvecH rom.H r,
               errorPosition := (p.val : Int) }) ∧
  (∀ (rom : Rom) (r : Vec7), matvecH rom.H r ≠ 0 → readTable rom.T (matvecH rom.H r) = .miss →
    (answerTo rom (.dec r 0)).decodeResult =
      some { decodedData := firstFour r, errorDetected := true, syndrome := matvecH rom.H r, errorPosition := -1 })

/-- R132, which the spec derives from R100, R110, R120 and R131: `DEC` is the merge of its three stages. -/
def Obligations.DecIsTheMergeOfItsThreeStages : Prop :=
  ∀ (rom : Rom) (r : Vec7), rom.Built →
    let d := answerTo rom (.dec r 0)
    let a := answerTo rom (.syn r 0)
    let l := answerTo rom (.loc 0 a.syn 0)
    let c := answerTo rom (.cor r l.res)
    d = { fault := none, res := c.res, data := c.data, errDet := a.errDet, syn := a.syn, hit := l.hit, pos := l.pos }

/-- R133, which the spec derives from R131 and R112: `DEC` flips one position exactly when it hits, at `pos`; it hits
exactly when it detects; its `res` is a valid codeword and its `data` that codeword's message. -/
def Obligations.DecFlipsAtMostOnePositionAndEndsOnACodeword : Prop :=
  ∀ (rom : Rom) (r : Vec7), rom.Built →
    let d := answerTo rom (.dec r 0)
    distance d.res r = d.hit.toNat ∧
    (∀ p : Position, d.hit = true → p.val = d.pos.toNat → d.res = r ^^^ unit p) ∧
    d.hit = d.errDet ∧
    matvecH rom.H d.res = 0 ∧
    vecmatG rom.G d.data = d.res

/-- R134, which the spec derives from R133 and R19: each received vector is within one flip of exactly one valid
codeword, and `DEC` returns that codeword and its data. -/
def Obligations.DecReturnsTheNearestCodeword : Prop :=
  ∀ (rom : Rom) (r : Vec7), rom.Built →
    let d := answerTo rom (.dec r 0)
    (ValidCodeword rom.G d.res ∧ distance d.res r ≤ 1) ∧
    (∀ c, ValidCodeword rom.G c → distance c r ≤ 1 → d.res = c ∧ d.data = firstFour c) ∧
    (∀ c, ValidCodeword rom.G c → c ≠ d.res → 2 ≤ distance c r)

/-- R135: the no-noise round trip and the correction of every single error, in every built block. -/
def Obligations.RoundTripAndSingleErrorCorrection : Prop :=
  ∀ (rom : Rom) (m : Message), rom.Built →
    let c := answerTo rom (.enc 0 m 0)
    let clean := answerTo rom (.dec c.res 0)
    (clean.fault = none ∧ clean.data = m ∧ clean.errDet = false ∧ clean.errorPosition = -1 ∧ clean.res = c.res) ∧
    (∀ p : Position,
      let hurt := answerTo rom (.dec (c.res ^^^ unit p) 0)
      hurt.fault = none ∧ hurt.data = m ∧ hurt.errDet = true ∧ hurt.errorPosition = (p.val : Int) ∧
        hurt.res = c.res ∧ hurt.syn = colH rom.H p)

/-- R136, which the spec derives from R131 and R101: two flips are corrected to a wrong codeword at a third position,
the data is wrong, and the response looks like that of a single error. -/
def Obligations.TwoFlipsAreSilentlyMiscorrected : Prop :=
  ∀ (rom : Rom) (m : Message) (p q : Position), rom.Built → p ≠ q →
    let c := vecmatG rom.G m
    let d := answerTo rom (.dec (c ^^^ unit p ^^^ unit q) 0)
    ∃ t : Position, t ≠ p ∧ t ≠ q ∧ colH rom.H t = colH rom.H p ^^^ colH rom.H q ∧
      d.fault = none ∧ d.errDet = true ∧ d.hit = true ∧ d.pos.toNat = t.val ∧
      d.res = c ^^^ unit p ^^^ unit q ^^^ unit t ∧ ValidCodeword rom.G d.res ∧ distance d.res c = 3 ∧ d.data ≠ m

/-- R137, which the spec derives from R133 and R48: decoding its own result changes nothing more. -/
def Obligations.DecIsIdempotentOnItsOwnResult : Prop :=
  ∀ (rom : Rom) (r : Vec7), rom.Built →
    let d := answerTo rom (.dec r 0)
    let again := answerTo rom (.dec d.res 0)
    again.res = d.res ∧ again.data = d.data ∧ again.errDet = false ∧ again.hit = false ∧ again.pos = 7

/-- R68 (D9): the response of `DEC` has one of the three patterns of the table, in any block, and so never `err_det` 0 with
`hit` 1; in a built block the third pattern (an error detected, not located) does not occur. -/
def Obligations.DecReportsOneOfThePatternsOfTheResultTuple : Prop :=
  ∀ (rom : Rom) (r : Vec7),
    let d := answerTo rom (.dec r 0)
    ((d.errDet = false ∧ d.hit = false ∧ d.pos = 7 ∧ d.errorPosition = -1) ∨
      (d.errDet = true ∧ d.hit = true ∧ d.pos.toNat ≤ 6 ∧ d.errorPosition = d.pos.toNat) ∨
      (d.errDet = true ∧ d.hit = false ∧ d.pos = 7 ∧ d.errorPosition = -1)) ∧
    (rom.Built → d.errDet = d.hit)

/-! ## Faults -/

/-- R168 (D7) and R170 (D8): in every state, `ENC`, `SYN`, `LOC` and `DEC` with a 1 in a must-be-zero bit return the
`ContractViolation` response, every other field 0, and change nothing else. -/
def Obligations.AMustBeZeroBitRaisesContractViolation : Prop :=
  ∀ s : State,
    let violated : State := { s with responses := s.responses ++
      [{ fault := some .contractViolation, res := 0, data := 0, errDet := false, syn := 0, hit := false, pos := 0 }] }
    (∀ (x : BitVec 3) (m : Message) (b : BitVec 7), x ≠ 0 ∨ b ≠ 0 → exec (.enc x m b) s = .next violated) ∧
    (∀ (r : Vec7) (b : BitVec 7), b ≠ 0 → exec (.syn r b) s = .next violated) ∧
    (∀ (x : BitVec 4) (syn : Syndrome) (b : BitVec 7), x ≠ 0 ∨ b ≠ 0 → exec (.loc x syn b) s = .next violated) ∧
    (∀ (r : Vec7) (b : BitVec 7), b ≠ 0 → exec (.dec r b) s = .next violated)

/-- R167 (D6), R170 (D8), R171: a step on a word whose `op` is 5, 6 or 7 returns the `IllegalOp` response whatever the
operand bits hold. -/
def Obligations.AReservedOpRaisesIllegalOp : Prop :=
  ∀ (s : State) (w : Command) (rest : List Command), s.commands = w :: rest → 5 ≤ (w.extractLsb' 14 3).toNat →
    step s = .next { s with commands := rest, responses := s.responses ++
      [{ fault := some .illegalOp, res := 0, data := 0, errDet := false, syn := 0, hit := false, pos := 0 }] }

/-- R66, R69, R166, R170 (D6, D7, D8): every one of the 131072 words gets a response; which fault it carries depends on
the `op` field and the must-be-zero bits of R64 alone; a fault response is one of two words; code 3 never appears. -/
def Obligations.TheFaultFieldClassifiesEveryCommandWord : Prop :=
  ∀ (rom : Rom) (w : Command),
    let op := (w.extractLsb' 14 3).toNat
    let violates := (op = 0 ∧ w &&& 0x0387F#17 ≠ 0) ∨ (op = 1 ∧ w &&& 0x0007F#17 ≠ 0) ∨
      (op = 2 ∧ w &&& 0x03C7F#17 ≠ 0) ∨ (op = 4 ∧ w &&& 0x0007F#17 ≠ 0)
    ((respond rom w).fault = some .illegalOp ↔ 5 ≤ op) ∧
    ((respond rom w).fault = some .contractViolation ↔ violates) ∧
    ((respond rom w).fault = some .illegalOp → (respond rom w).pack = 0x100000#21) ∧
    ((respond rom w).fault = some .contractViolation → (respond rom w).pack = 0x080000#21) ∧
    ((respond rom w).pack).extractLsb' 19 2 ≠ 3

/-- R166: a run in which no response has `fault` not 0 is exactly one whose commands all have a defined operation and
clear must-be-zero bits. -/
def Obligations.ARunIsSafeExactlyWhenItsCommandsKeepTheContract : Prop :=
  ∀ s t : State, Host.Core.run Sys2Proof.core s.commands.length s = .next t →
    (t.Safe ↔ s.Safe ∧ ∀ w ∈ s.commands, ∃ i : Instr, decode w = .ok i ∧ i.wellFormed = true)

/-! ## The machine: frame, step, runs -/

/-- R20, R48, R70: every operation, in every form and state, completes with exactly one response and changes nothing
else; the response is a fault exactly when the instruction has a 1 in a must-be-zero bit. -/
def Obligations.EveryOperationAnswersOnceAndChangesNothingElse : Prop :=
  ∀ (i : Instr) (s : State), ∃ r : Response,
    exec i s = .next { s with responses := s.responses ++ [r] } ∧ (r.fault = none ↔ i.wellFormed = true)

/-- A step runs the decoded instruction (R71): the next command leaves the host's list and the operation it decodes to
is executed. -/
def Obligations.AStepRunsTheDecodedInstruction : Prop :=
  ∀ (s : State) (w : Command) (rest : List Command) (i : Instr), s.commands = w :: rest → decode w = .ok i →
    step s = exec i { s with commands := rest }

/-- R17 (b): the block never acts on its own. That the machine answers a step without a command by an unchanged state is
the model's own choice (log entry 6). -/
def Obligations.WithoutACommandNothingHappens : Prop :=
  ∀ s : State, s.commands = [] → step s = .next s

/-- R71 (D4, D8): decoding and executing the next command of the host's list (the model's choice, log entry 4) gives
exactly the response of the pseudocode `respond` on the fields of the raw word. -/
def Obligations.AStepAnswersRespond : Prop :=
  ∀ (s : State) (w : Command) (rest : List Command), s.commands = w :: rest →
    step s = .next { s with commands := rest, responses := s.responses ++ [respond s.rom w] }

/-- R18, R50, R198: a run of `n` commands ends after `n` steps; its observation is the response of each command, in
order, each a function of the command and the constants alone. The two lists are the model's choice (log entries 4, 5). -/
def Obligations.ARunAnswersEveryCommandInOrder : Prop :=
  ∀ s : State, Host.Core.run Sys2Proof.core s.commands.length s =
    .next { s with commands := [], responses := s.responses ++ s.commands.map (respond s.rom) }

/-- R50: the response to a command is the total function `respond` of that command and the configuration: two blocks
built from the same `G` and `H` answer the same command alike, whatever commands and responses came before and whatever
commands come after. -/
def Obligations.TheResponseDependsOnTheCommandAndTheConfigurationAlone : Prop :=
  ∀ (s t : State) (w : Command) (x y : List Command), s.rom.Built → t.rom.Built →
    s.rom.G = t.rom.G → s.rom.H = t.rom.H → s.commands = w :: x → t.commands = w :: y →
    step s = .next { s with commands := x, responses := s.responses ++ [respond s.rom w] } ∧
    step t = .next { t with commands := y, responses := t.responses ++ [respond s.rom w] }

/-- R51 (a), which the spec derives from R50: reordering the commands of a run reorders its responses in the same way
and changes none of them. -/
def Obligations.ReorderingCommandsReordersResponses : Prop :=
  ∀ s t s' t' : State, s.rom = t.rom → s.responses = [] → t.responses = [] → s.commands.Perm t.commands →
    Host.Core.run Sys2Proof.core s.commands.length s = .next s' →
    Host.Core.run Sys2Proof.core t.commands.length t = .next t' →
    (s.commands.zip s'.responses).Perm (t.commands.zip t'.responses)

/-- R31, R180: one instance answering several hosts in any interleaving gives each host the responses it would have got
alone. Each command of the shared run carries the number of its host. -/
def Obligations.InterleavedHostsGetTheirOwnResponses : Prop :=
  ∀ (s shared alone : State) (tagged : List (Nat × Command)) (host : Nat), s.responses = [] →
    Host.Core.run Sys2Proof.core tagged.length { s with commands := tagged.map (·.2) } = .next shared →
    Host.Core.run Sys2Proof.core (tagged.filter (·.1 == host)).length
      { s with commands := (tagged.filter (·.1 == host)).map (·.2) } = .next alone →
    alone.responses = ((tagged.zip shared.responses).filter (·.1.1 == host)).map (·.2)

/-- R20, R53, R166, R198: no run ever stops in a fault or a refusal, and none changes a constant. -/
def Obligations.NoRunStopsOrChangesTheConstants : Prop :=
  ∀ (n : Nat) (s : State), ∃ t : State, Host.Core.run Sys2Proof.core n s = .next t ∧ t.rom = s.rom

/-- R27, which the spec derives from R90 and R100: a host can recover `G`, `H` and `T` from the responses: two blocks
that answer every command alike have the same constants. -/
def Obligations.TheResponsesDetermineTheConstants : Prop :=
  ∀ x y : Rom, (∀ w : Command, respond x w = respond y w) → x = y

/-! ## Encoding -/

/-- R64, R65: no bit of a command is dropped: decoding the word of an instruction gives it back, with every operand and
every must-be-zero bit at every value. -/
def Obligations.DecodeOfEncodeIsTheInstruction : Prop :=
  ∀ i : Instr, decode (encode i) = .ok i

/-- R63, R69 (D5, D6): decoding is total; a word whose `op` is 0 to 4 is the word of exactly the instruction it decodes
to, any other is rejected by its reserved `op`. -/
def Obligations.DecodeAcceptsExactlyTheFiveOperations : Prop :=
  ∀ w : Command,
    ((w.extractLsb' 14 3).toNat < 5 → ∃ i : Instr, decode w = .ok i ∧ encode i = w ∧ i.op = w.extractLsb' 14 3) ∧
    (5 ≤ (w.extractLsb' 14 3).toNat → decode w = .error (.reservedOp (w.extractLsb' 14 3)))

/-- R65 (D5): the rows of the opcode table are selected by `match` under `mask` alone, and no word matches two rows. -/
def Obligations.TheOpcodeTableSelectsOneRow : Prop :=
  (∀ (w : Command) (i : Instr), decode w = .ok i → w &&& 0x1C000#17 = matchWord i) ∧
  (∀ (w : Command) (i : Instr), w &&& 0x1C000#17 = matchWord i → ∃ j : Instr, decode w = .ok j ∧ j.op = i.op) ∧
  (∀ i j : Instr, matchWord i = matchWord j → i.op = j.op)

/-- R64 (D7): an instruction is well-formed exactly when its word has no bit of `mbz(op)`. -/
def Obligations.WellFormedIsTheMustBeZeroMask : Prop :=
  (∀ x m b, (Instr.enc x m b).wellFormed = true ↔ encode (.enc x m b) &&& 0x0387F#17 = 0) ∧
  (∀ r b, (Instr.syn r b).wellFormed = true ↔ encode (.syn r b) &&& 0x0007F#17 = 0) ∧
  (∀ x s b, (Instr.loc x s b).wellFormed = true ↔ encode (.loc x s b) &&& 0x03C7F#17 = 0) ∧
  (∀ r k, (Instr.cor r k).wellFormed = true ∧ encode (.cor r k) &&& 0x00000#17 = 0) ∧
  (∀ r b, (Instr.dec r b).wellFormed = true ↔ encode (.dec r b) &&& 0x0007F#17 = 0)

/-- R73, R90, R100, R110, R120, R131: the example word of each operation, written out bit by bit from R65, decodes to
the instruction it stands for, and reserved words to none. -/
def Obligations.WordsWrittenOutDecodeToTheirInstructions : Prop :=
  decode 0b00000010110000000#17 = .ok (.enc 0 0b1011#4 0) ∧
  decode 0b00110010100000000#17 = .ok (.syn 0b1001010#7 0) ∧
  decode 0b01000000110000000#17 = .ok (.loc 0 0b011#3 0) ∧
  decode 0b01110010100010000#17 = .ok (.cor 0b1001010#7 0b0010000#7) ∧
  decode 0b10010010100000000#17 = .ok (.dec 0b1001010#7 0) ∧
  decode 0b00000110110000000#17 = .ok (.enc 0b001#3 0b1011#4 0) ∧
  decode 0b10111111111111111#17 = .error (.reservedOp 5) ∧
  decode 0b11100000000000000#17 = .error (.reservedOp 7)

/-- R66 (D4, D9): the response word carries its seven fields and nothing else: reading a packed response gives it back,
packing what was read gives the word back, and only code 3 of `fault` has no reading. -/
def Obligations.ResponseWordsCarryExactlyTheirFields : Prop :=
  (∀ r : Response, unpack r.pack = some r) ∧
  (∀ (w : ResponseWord) (r : Response), unpack w = some r → r.pack = w) ∧
  (∀ w : ResponseWord, unpack w = none ↔ w.extractLsb' 19 2 = 3)

/-- R73 (D21; the form is in log entry 13): text that assembles to a mnemonic has zeros in its must-be-zero bits, so it
never raises `ContractViolation`: in every state its response is no fault. -/
def Obligations.AssembledTextNeverViolatesTheContract : Prop :=
  ∀ (text : List Char) (i : Instr), parseLine text = some (.command i) →
    i.wellFormed = true ∧
    ∀ s : State, ∃ r : Response, exec i s = .next { s with responses := s.responses ++ [r] } ∧ r.fault = none

/-- R73 (D21; the form is in log entry 13): the line of a well-formed instruction assembles to it. -/
def Obligations.AssemblingTheLineOfAnInstructionGivesItBack : Prop :=
  ∀ i : Instr, i.wellFormed = true → parseLine (instrText i) = some (.command i)

/-! ## The host-side functions and the channel -/

/-- R145: `value_to_bits` gives exactly `width` bits, position `i` the bit of weight `2^(width-1-i)`, and truncates a
value that does not fit; with the source's example. -/
def Obligations.ValueToBitsIsMostSignificantFirstAndTruncates : Prop :=
  (∀ value width : Nat, (valueToBits value width).length = width ∧
    (∀ i : Nat, i < width → (valueToBits value width)[i]? = some (decide (value / 2 ^ (width - 1 - i) % 2 = 1))) ∧
    valueToBits value width = valueToBits (value % 2 ^ width) width) ∧
  (∀ value : Nat, valueToBits value 0 = []) ∧
  valueToBits 5 4 = [false, true, false, true]

/-- R146: `bits_to_value` is the sum of `v⟨i⟩ * 2^(W-1-i)`, is below `2^W`, and is 0 on the empty sequence; with the
source's example. -/
def Obligations.BitsToValueIsTheWeightedSum : Prop :=
  (∀ bits : List Bool, bitsToValue bits < 2 ^ bits.length ∧
    bitsToValue bits =
      ((List.range bits.length).map fun i => (bits.getD i false).toNat * 2 ^ (bits.length - 1 - i)).sum) ∧
  bitsToValue [] = 0 ∧ bitsToValue [false, true, false, true] = 5

/-- R147, which the spec derives from R145 and R146: the two round trips. -/
def Obligations.ConversionsRoundTrip : Prop :=
  (∀ x w : Nat, bitsToValue (valueToBits x w) = x % 2 ^ w) ∧
  (∀ bits : List Bool, valueToBits (bitsToValue bits) bits.length = bits)

/-- R12, R148 (D2): the unsigned value of a field is `bits_to_value` of the vector it carries, and the vector is
`value_to_bits` of the field's value. -/
def Obligations.FieldsCarryTheirVectors : Prop :=
  (∀ (w : Nat) (v : BitVec w), bitsToValue (positions v) = v.toNat) ∧
  (∀ (w : Nat) (v : BitVec w), positions v = valueToBits v.toNat w)

/-- R44, R150: a byte is two message blocks, high nibble first, and is rebuilt from them in the same order. -/
def Obligations.ABytesTwoBlocksRebuildIt : Prop :=
  ∀ byte : BitVec 8,
    positions (splitByte byte).1 = (valueToBits byte.toNat 8).take 4 ∧
    positions (splitByte byte).2 = (valueToBits byte.toNat 8).drop 4 ∧
    (splitByte byte).1.toNat = byte.toNat / 16 ∧ (splitByte byte).2.toNat = byte.toNat % 16 ∧
    joinByte (splitByte byte).1 (splitByte byte).2 = byte

/-- R156, R158 (a) (D19): the channel returns the codeword, or flips exactly the drawn position. -/
def Obligations.TheChannelFlipsAtMostOnePosition : Prop :=
  ∀ (c : Vec7) (flip : Bool) (p : Position),
    distance (noise c flip p) c = flip.toNat ∧
    ∀ i : Position, bit (noise c flip p) i = (bit c i ^^ (flip && decide (i = p)))

/-- R157 (D25), for every way of drawing: with probability 0 the channel returns an unmodified copy, with probability 1
exactly one bit differs, and it never flips more than one. -/
def Obligations.TheChannelAtProbabilityZeroAndOne : Prop :=
  ∀ (Source : Type) (d : NoiseDraw Source) (src : Source) (q : Probability) (c : Vec7),
    distance (simulateNoise d src q c).1 c ≤ 1 ∧
    (q.value = 0 → (simulateNoise d src q c).1 = c) ∧
    (q.value = 1 → distance (simulateNoise d src q c).1 c = 1)

/-- R158 (b) (D19), which the spec derives from R156 and R135: end to end through the machine. The host encodes any
message, the channel draws as it likes, and the decode of what arrives gives the message back. The host's list and
`transmit` are the model's (log entries 4 and 12). -/
def Obligations.WhateverTheChannelDrawsTheDataComesBack : Prop :=
  ∀ (s : State) (m : Message) (rest : List Command) (flip : Bool) (p : Position),
    s.rom.Built → s.commands = encode (.enc 0 m 0) :: rest →
    ∃ (t u : State) (sent got : Response),
      step s = .next t ∧ t.responses = s.responses ++ [sent] ∧
      step (t.present (transmit sent flip p)) = .next u ∧ u.responses = t.responses ++ [got] ∧
      got.fault = none ∧ got.data = m ∧ got.res = sent.res ∧ got.errDet = flip ∧ got.hit = flip ∧
      (flip = true → got.pos.toNat = p.val)
end

