-- ==== Sys2Proof/Laws/Encoding.lean ====
section
/-! SUPPORT. The fields of a command word put together from its three fields (R62). -/

namespace Sys2Proof.Laws

open Sys2Proof

/-- Bit `i` of `{op, a, b}`. -/
theorem getLsbD_fields (op : BitVec 3) (a b : BitVec 7) (i : Nat) :
    BitVec.getLsbD (w := 17) (op ++ a ++ b) i =
      if i < 7 then b.getLsbD i else if i - 7 < 7 then a.getLsbD (i - 7) else op.getLsbD (i - 7 - 7) := by
  have outer := BitVec.getLsbD_append (x := op ++ a) (y := b) (i := i)
  have inner := BitVec.getLsbD_append (x := op) (y := a) (i := i - 7)
  exact outer.trans (by rw [inner])

/-- The `op` field of `{op, a, b}` (R62). -/
theorem opField_append (op : BitVec 3) (a b : BitVec 7) : opField (op ++ a ++ b) = op := by
  apply BitVec.eq_of_getLsbD_eq
  intro i hi
  have h1 : ¬ 14 + i < 7 := by omega
  have h2 : ¬ 14 + i - 7 < 7 := by omega
  have h3 : 14 + i - 7 - 7 = i := by omega
  rw [opField, BitVec.getLsbD_extractLsb', getLsbD_fields, if_neg h1, if_neg h2, h3, decide_eq_true hi,
    Bool.true_and]

/-- The first operand of `{op, a, b}` (R62). -/
theorem aField_append (op : BitVec 3) (a b : BitVec 7) : aField (op ++ a ++ b) = a := by
  apply BitVec.eq_of_getLsbD_eq
  intro i hi
  have h1 : ¬ 7 + i < 7 := by omega
  have h2 : 7 + i - 7 = i := by omega
  rw [aField, BitVec.getLsbD_extractLsb', getLsbD_fields, if_neg h1, h2, if_pos hi, decide_eq_true hi,
    Bool.true_and]

/-- The second operand of `{op, a, b}` (R62). -/
theorem bField_append (op : BitVec 3) (a b : BitVec 7) : bField (op ++ a ++ b) = b := by
  apply BitVec.eq_of_getLsbD_eq
  intro i hi
  rw [bField, BitVec.getLsbD_extractLsb', getLsbD_fields, Nat.zero_add, if_pos hi, decide_eq_true hi,
    Bool.true_and]

/-- A command is its three fields (R62). -/
theorem append_fields (w : Command) : opField w ++ aField w ++ bField w = w := by
  apply BitVec.eq_of_getLsbD_eq
  intro i hi
  rw [getLsbD_fields]
  simp only [opField, aField, bField, BitVec.getLsbD_extractLsb']
  split
  · next h => simp [h]
  · split
    · next h1 h2 =>
      have h3 : 7 + (i - 7) = i := by omega
      simp [h2, h3]
    · next h1 h2 =>
      have h3 : i - 7 - 7 < 3 := by omega
      have h4 : 14 + (i - 7 - 7) = i := by omega
      simp [h3, h4]

end Sys2Proof.Laws
end

