-- ==== Sys2Proof/Laws/Gf2.lean ====
section
/-! SUPPORT. The small lemmas of vectors, positions and the two matrix products: every vector is its bits, XOR acts
position by position, and each product is linear. -/

namespace Sys2Proof.Laws

open Sys2Proof.Machine

/-- Two vectors with the same bit at every position are equal. -/
theorem eq_of_bit_eq {w : Nat} {u v : BitVec w} (h : ∀ i, bit u i = bit v i) : u = v :=
  BitVec.eq_of_getMsbD_eq fun i hi => h ⟨i, hi⟩

@[simp] theorem bit_ofPositions : ∀ {w : Nat} (f : Fin w → Bool) (i : Fin w), bit (ofPositions f) i = f i
  | w + 1, f, i => by
    cases i using Fin.cases with
    | zero => simp [bit, ofPositions, BitVec.getMsbD_eq_getLsbD, BitVec.getElem_cons]
    | succ i =>
      have ih := bit_ofPositions (fun i => f i.succ) i
      simp only [bit] at ih
      simp [bit, ofPositions, ih]

@[simp] theorem bit_xor {w : Nat} (u v : BitVec w) (i : Fin w) : bit (u ^^^ v) i = (bit u i ^^ bit v i) := by
  simp [bit]

@[simp] theorem bit_zero {w : Nat} (i : Fin w) : bit (0#w) i = false := by simp [bit]

/-- `e(p)` is 1 at position `p` and 0 elsewhere (R13). -/
theorem bit_unit : ∀ p i : Position, bit (unit p) i = decide (i = p) := by decide

@[simp] theorem bit_vecmatG (G : GMatrix) (m : Message) (j : Position) :
    bit (vecmatG G m) j =
      ((bit m 0 && entryG G 0 j) ^^ (bit m 1 && entryG G 1 j) ^^ (bit m 2 && entryG G 2 j) ^^
        (bit m 3 && entryG G 3 j)) := by
  simp [vecmatG]

@[simp] theorem bit_matvecH (H : HMatrix) (r : Vec7) (i : Fin 3) : bit (matvecH H r) i = dot (H.get i) r := by
  simp [matvecH]

@[simp] theorem bit_colH (H : HMatrix) (j : Position) (i : Fin 3) : bit (colH H j) i = entryH H i j := by
  simp [colH]

/-- The dot product is linear in its second argument (R13). -/
theorem dot_xor (u v w : Vec7) : dot u (v ^^^ w) = (dot u v ^^ dot u w) := by
  have swap : ∀ x y a b : Bool, ((x ^^ y) ^^ (a ^^ b)) = ((x ^^ a) ^^ (y ^^ b)) := by decide
  simp only [dot, bit_xor, Bool.and_xor_distrib_left]
  rw [swap (bit u 0 && bit v 0) _ (bit u 1 && bit v 1), swap _ _ (bit u 2 && bit v 2), swap _ _ (bit u 3 && bit v 3),
    swap _ _ (bit u 4 && bit v 4), swap _ _ (bit u 5 && bit v 5), swap _ _ (bit u 6 && bit v 6)]

/-- The dot product with `e(p)` reads position `p` (R13). -/
theorem dot_unit (u : Vec7) (p : Position) : dot u (unit p) = bit u p := by
  simp only [dot, bit_unit]
  fin_cases p <;> simp

end Sys2Proof.Laws
end

