-- ==== Sys2Proof/Laws/State.lean ====
section
/-! SUPPORT. One lemma per field per update of State, so that no later proof unfolds a record update. -/

namespace Sys2Proof.Laws

open Sys2Proof.Machine

variable (s : State) (r : Response) (f : Fault) (w : Command) (c : Config)

@[simp] theorem answer_rom : (s.answer r).rom = s.rom := rfl
@[simp] theorem answer_commands : (s.answer r).commands = s.commands := rfl
@[simp] theorem answer_responses : (s.answer r).responses = s.responses ++ [r] := rfl

@[simp] theorem takeFault_rom : (s.takeFault f).rom = s.rom := rfl
@[simp] theorem takeFault_commands : (s.takeFault f).commands = s.commands := rfl
@[simp] theorem takeFault_responses : (s.takeFault f).responses = s.responses ++ [faultResponse f] := rfl

@[simp] theorem present_rom : (s.present w).rom = s.rom := rfl
@[simp] theorem present_commands : (s.present w).commands = w :: s.commands := rfl
@[simp] theorem present_responses : (s.present w).responses = s.responses := rfl

@[simp] theorem ofConfig_rom : (State.ofConfig c).rom = Rom.ofConfig c := rfl
@[simp] theorem ofConfig_commands : (State.ofConfig c).commands = [] := rfl
@[simp] theorem ofConfig_responses : (State.ofConfig c).responses = [] := rfl

@[simp] theorem romOfConfig_G : (Rom.ofConfig c).G = c.G := rfl
@[simp] theorem romOfConfig_H : (Rom.ofConfig c).H = c.H := rfl
@[simp] theorem romOfConfig_T : (Rom.ofConfig c).T = buildTable c.H := rfl

end Sys2Proof.Laws
end

