-- ==== Sys2Proof/Laws/Ops.lean ====
section
/-! SUPPORT. What each shared operation can do, said once: the provers cite these instead of unfolding it. -/

namespace Sys2Proof.Laws

open Sys2Proof.Machine

/-- What `fetch` takes: the first command, and nothing else. -/
theorem fetch_eq_some {s s' : State} {w : Command} (h : fetch s = some (w, s')) :
    s.commands = w :: s'.commands ∧ s'.rom = s.rom ∧ s'.responses = s.responses := by
  unfold fetch at h
  split at h
  · cases h
  · next hc =>
    cases h
    exact ⟨hc, rfl, rfl⟩

theorem fetch_of_nil {s : State} (h : s.commands = []) : fetch s = none := by
  unfold fetch
  rw [h]

theorem fetch_of_cons {s : State} {w : Command} {rest : List Command} (h : s.commands = w :: rest) :
    fetch s = some (w, { s with commands := rest }) := by
  unfold fetch
  rw [h]

@[simp] theorem answerIfClear_true (r : Response) (s : State) : answerIfClear true r s = .next (s.answer r) := rfl

@[simp] theorem answerIfClear_false (r : Response) (s : State) :
    answerIfClear false r s = .next (s.takeFault .contractViolation) := rfl

/-- An operation ends in one response: its own when the must-be-zero bits are clear, else the fault response. -/
theorem answerIfClear_eq (clear : Bool) (r : Response) (s : State) :
    answerIfClear clear r s = .next (s.answer (if clear then r else faultResponse .contractViolation)) := by
  cases clear <;> rfl

/-- The table after one turn of the loop of R23: the column's entry is the position, the others stand. -/
theorem readTable_recordColumn (H : HMatrix) (T : Table) (i : Position) (syn : Syndrome) :
    readTable (recordColumn H T i) syn = if colH H i = syn then .hit i else readTable T syn := by
  simp [readTable, recordColumn, Vector.getElem_set, BitVec.toNat_inj]

/-- The table before the loop of R23 holds no position. -/
theorem readTable_replicate_miss (syn : Syndrome) :
    readTable (Vector.replicate 8 TableEntry.miss) syn = .miss := by
  simp [readTable]

theorem construct_of_wf {c : Config} (h : WF c) : construct c = .next (State.ofConfig c) := if_pos h

theorem construct_of_not_wf {c : Config} (h : ¬ WF c) : construct c = .refused .malformedConfiguration := if_neg h

end Sys2Proof.Laws
end

