-- ==== Sys2Proof/Laws/PerInstr.lean ====
section
/-! SUPPORT. Facts about every instruction as syntax, one lemma per constructor. Family EncodeMatches: the word of an
instruction has the bits of its row's `match` under the row's `mask` (R65). -/

namespace Sys2Proof.Laws.EncodeMatches

open Sys2Proof

/-- The encoded word carries the operation's code and matches its row of the opcode table. -/
def Statement (i : Instr) : Prop := opField (encode i) = i.op ∧ encode i &&& opMask = matchWord i

/-- A word of the form `{op, a, b}` under the mask of R65 is `op << 14`. -/
theorem and_opMask (op : BitVec 3) (a b : BitVec 7) : (op ++ a ++ b) &&& opMask = op ++ 0#7 ++ 0#7 := by
  have h : opMask = 7#3 ++ 0#7 ++ 0#7 := by decide
  rw [h, BitVec.and_append, BitVec.and_append]
  have h7 : op &&& 7#3 = op := BitVec.and_allOnes
  rw [h7, BitVec.and_zero, BitVec.and_zero]

/-- `match` is `op << 14` (R65). -/
theorem matchWord_eq (i : Instr) : matchWord i = i.op ++ 0#7 ++ 0#7 := by
  cases i <;> simp only [matchWord, Instr.op] <;> decide

theorem of_fields {i : Instr} (a b : BitVec 7) (h : encode i = i.op ++ a ++ b) : Statement i :=
  ⟨h ▸ opField_append i.op a b, by rw [h, matchWord_eq]; exact and_opMask i.op a b⟩

theorem enc (aMbz : BitVec 3) (m : Message) (bMbz : BitVec 7) : Statement (.enc aMbz m bMbz) :=
  of_fields (aMbz ++ m) bMbz (by simp only [encode, Instr.op]; congr 1; exact BitVec.append_assoc)

theorem syn (r : Vec7) (bMbz : BitVec 7) : Statement (.syn r bMbz) := of_fields r bMbz rfl

theorem loc (aMbz : BitVec 4) (s : Syndrome) (bMbz : BitVec 7) : Statement (.loc aMbz s bMbz) :=
  of_fields (aMbz ++ s) bMbz (by simp only [encode, Instr.op]; congr 1; exact BitVec.append_assoc)

theorem cor (r k : Vec7) : Statement (.cor r k) := of_fields r k rfl

theorem dec (r : Vec7) (bMbz : BitVec 7) : Statement (.dec r bMbz) := of_fields r bMbz rfl

end Sys2Proof.Laws.EncodeMatches
end

