-- ==== Sys2Proof/Tests/Slice0.lean ====
section
/-! SUPPORT. The model's own tests. Expected values are the spec's: the encodings of spec/30_encoding.md R65, the examples
of the operation rules and the vectors of spec/95_test_vectors.md, sections 1 and 2. The last part gives, for every
statement with hypotheses, a concrete state and operands that meet them. -/

namespace Sys2Proof.Tests

open Sys2Proof.Machine

/-! ## Well-formedness: each check refuses an ill-formed term (R64) -/

theorem test_wellFormed_enc_refuses_a_wide_message : (Instr.enc 0b001#3 0b1011#4 0).wellFormed = false := by decide
theorem test_wellFormed_enc_refuses_b : (Instr.enc 0 0b1011#4 0b0000001#7).wellFormed = false := by decide
theorem test_wellFormed_syn_refuses_b : (Instr.syn 0b1001010#7 0b1000000#7).wellFormed = false := by decide
theorem test_wellFormed_loc_refuses_a_wide_syndrome : (Instr.loc 0b0001#4 0b011#3 0).wellFormed = false := by decide
theorem test_wellFormed_loc_refuses_b : (Instr.loc 0 0b011#3 0b0000100#7).wellFormed = false := by decide
theorem test_wellFormed_dec_refuses_b : (Instr.dec 0b1001010#7 0b0000001#7).wellFormed = false := by decide
theorem test_wellFormed_cor_has_no_check : (Instr.cor 0b1111111#7 0b1111111#7).wellFormed = true := by decide

/-! ## Decoding: words written out from the patterns of R65 -/

theorem test_decode_enc : decode 0b000_000_1011_0000000#17 = .ok (.enc 0 0b1011#4 0) := by decide
theorem test_decode_enc_mbz : decode 0b000_110_0001_1000000#17 = .ok (.enc 0b110#3 0b0001#4 0b1000000#7) := by decide
theorem test_decode_syn : decode 0b001_1001010_0000001#17 = .ok (.syn 0b1001010#7 0b0000001#7) := by decide
theorem test_decode_loc : decode 0b010_0110_011_0000000#17 = .ok (.loc 0b0110#4 0b011#3 0) := by decide
theorem test_decode_cor : decode 0b011_1001010_0010000#17 = .ok (.cor 0b1001010#7 0b0010000#7) := by decide
theorem test_decode_dec : decode 0b100_1001010_0000000#17 = .ok (.dec 0b1001010#7 0) := by decide
theorem test_decode_reserved : decode 0b110_1111111_1111111#17 = .error (.reservedOp 6) := by decide
theorem test_decodeTableWord_dec : decodeTableWord 24 0x12500 = some (.dec 0b1001010#7 0) := by decide
theorem test_decodeTableWord_too_wide : decodeTableWord 24 0x20000 = none := by decide

/-! ## One step on the default block, as response words (95_test_vectors.md section 2) -/

/-- The response words of a state that a step answers. -/
def answered : Host.Outcome State Fault Refusal → List ResponseWord
  | .next s => s.responses.map Response.pack
  | _ => []

/-- The response to one command word as the first after reset. -/
def first (w : Nat) : List ResponseWord := answered (step (State.reset.withFetchWord 17 w))

theorem test_enc_1011 : first 0x00580 = [0x05A000#21] := by decide
theorem test_enc_0001 : first 0x00080 = [0x00F000#21] := by decide
theorem test_syn_of_a_corrupted_codeword : first 0x06500 = [0x0000B0#21] := by decide
theorem test_syn_of_a_unit_vector : first 0x06000 = [0x0000E0#21] := by decide
theorem test_loc_miss : first 0x08000 = [0x000007#21] := by decide
theorem test_loc_hit : first 0x08280 = [0x020009#21] := by decide
theorem test_cor_flips_a_data_position : first 0x0E510 = [0x05AB00#21] := by decide
theorem test_cor_mask_of_weight_two : first 0x0ED30 = [0x06AD00#21] := by decide
theorem test_dec_corrects : first 0x12500 = [0x05ABBA#21] := by decide
theorem test_dec_of_a_codeword : first 0x12D00 = [0x05AB07#21] := by decide

theorem test_illegalOp_has_priority : first 0x1FFFF = [0x100000#21] := by decide
theorem test_contractViolation_enc : first 0x00D80 = [0x080000#21] := by decide
theorem test_contractViolation_dec : first 0x12501 = [0x080000#21] := by decide

/-! ## Host side, channel, construction -/

theorem test_valueToBits_truncates : valueToBits 16 4 = [false, false, false, false] := by decide
theorem test_bitsToValue_of_a_codeword : bitsToValue (positions 0b1011010#7) = 90 := by decide
theorem test_splitByte : splitByte 0xB5#8 = (0b1011#4, 0b0101#4) := by decide
theorem test_noise_flips : noise 0b1011010#7 true 2 = 0b1001010#7 := by decide
theorem test_unpack_code_three : unpack 0x180000#21 = none := by decide
theorem test_parse_cor :
    (parseLine
      ['C', 'O', 'R', ' ', '1', '0', '0', '1', '0', '1', '0', ',', ' ', '0', '0', '1', '0', '0', '0', '0']).bind
        Line.word = some 0x0E510#17 := by decide
theorem test_parse_raw : parseLine ['.', 'c', 'm', 'd', ' ', '0', 'x', '1', 'B', 'F', 'F', 'F', ' ', '#', 'x'] =
    some (.raw 0x1BFFF#17) := by decide
theorem test_parse_refuses_a_short_operand : parseLine ['E', 'N', 'C', ' ', '1', '0', '1'] = none := by decide

/-! ## Witnesses: what meets the hypotheses of each statement -/

/-- The default block with the given commands still to present. -/
def presenting (ws : List Command) : State := { State.reset with commands := ws }

/-- A configuration that fails `WF`: all entries zero. -/
def zeroConfig : Config := { G := Vector.replicate 4 0, H := Vector.replicate 3 0 }

/-- The default `G` with rows of `H` mixed: row 0 replaced by the sum of rows 0 and 1. -/
def mixedConfig : Config := { G := defaultG, H := #v[0b0110110#7, 0b1011010#7, 0b0111001#7] }

/-- A block that was never built: the table holds no position. -/
def emptyTable : State := { State.reset with rom := { State.reset.rom with T := Vector.replicate 8 .miss } }

/-- A way of drawing that flips position 6 exactly at probability 1. -/
def drawAtOne : NoiseDraw Unit where
  draw src q := (decide (q.value = 1), 6, src)
  flipsNeverAtZero _ q h := by simp [h]
  flipsAlwaysAtOne _ q h := by simp [h]

/-- The built block every witness below rests on. -/
theorem built : State.reset.rom.Built := by decide

theorem test_witness_EveryStepKeepsTheInvariant :
    (presenting [0x12500#17]).Inv ∧ ∃ t, step (presenting [0x12500#17]) = .next t := ⟨by decide, _, rfl⟩

theorem test_witness_ConstructionBuildsWellFormedBlocksOnly :
    WF mixedConfig ∧ ¬ WF zeroConfig ∧ (∀ i : Position, colH mixedConfig.H i ≠ 0) := by decide

theorem test_witness_LawsOfEveryWellFormedConfiguration : WF mixedConfig ∧ (0b0000#4 ≠ 0b0001#4) := by decide

theorem test_witness_ParityBlockOfAWellFormedConfiguration : WF mixedConfig ∧ WF defaultConfig := by decide

theorem test_witness_MixingTheRowsOfHChangesOnlyTheSyndrome :
    (Rom.ofConfig defaultConfig).Built ∧ (Rom.ofConfig mixedConfig).Built ∧
      (Rom.ofConfig defaultConfig).G = (Rom.ofConfig mixedConfig).G ∧
      (Rom.ofConfig defaultConfig).H ≠ (Rom.ofConfig mixedConfig).H := by decide

theorem test_witness_EncIsLinearSystematicAndInjective :
    State.reset.rom.Built ∧ (answerTo State.reset.rom (.enc 0 0b1111#4 0)).res =
      (answerTo State.reset.rom (.enc 0 0b1111#4 0)).res := by decide

theorem test_witness_SynIsZeroExactlyOnValidCodewords :
    State.reset.rom.Built ∧ ValidCodeword State.reset.rom.G 0b1011010#7 ∧ (0 : Position) ≠ 6 :=
  ⟨built, ⟨0b1011#4, by decide⟩, by decide⟩

theorem test_witness_ErrDetSaysOnlyWhetherTheVectorIsACodeword : State.reset.rom.Built ∧ (4 : Position) ≠ 5 := by decide

theorem test_witness_LocAnswersTheTableEntry :
    readTable State.reset.rom.T 0b110#3 = .hit 0 ∧ readTable State.reset.rom.T 0b001#3 = .hit 6 ∧
      readTable State.reset.rom.T 0b000#3 = .miss := by decide

theorem test_witness_LocInvertsTheColumnsOfH : State.reset.rom.Built := built

theorem test_witness_AMissIsAnsweredAndNeverCrashes :
    readTable State.reset.rom.T 0 = .miss ∧ readTable emptyTable.rom.T 0b111#3 = .miss ∧
      matvecH emptyTable.rom.H 0b0001000#7 ≠ 0 ∧
      readTable emptyTable.rom.T (matvecH emptyTable.rom.H 0b0001000#7) = .miss ∧ State.reset.rom.Built := by decide

theorem test_witness_CorFlipsExactlyTheMask :
    (3 : Position).val ≤ 3 ∧ 4 ≤ (4 : Position).val ∧ State.reset.rom.Built ∧
      (answerTo State.reset.rom (.loc 0 (matvecH State.reset.rom.H 0b1001010#7) 0)).hit = true := by decide

theorem test_witness_DecAnswersSyndromePositionAndCorrectedVector :
    matvecH State.reset.rom.H 0b1011010#7 = 0 ∧
      (matvecH State.reset.rom.H 0b1001010#7 ≠ 0 ∧
        readTable State.reset.rom.T (matvecH State.reset.rom.H 0b1001010#7) = .hit 2) ∧
      (matvecH emptyTable.rom.H 0b1001010#7 ≠ 0 ∧
        readTable emptyTable.rom.T (matvecH emptyTable.rom.H 0b1001010#7) = .miss) := by decide

theorem test_witness_DecIsTheSourcesDecode :
    matvecH State.reset.rom.H 0b1111111#7 = 0 ∧
      (State.reset.rom.Built ∧ matvecH State.reset.rom.H 0b0000001#7 ≠ 0) ∧
      (matvecH emptyTable.rom.H 0b0000001#7 ≠ 0 ∧
        readTable emptyTable.rom.T (matvecH emptyTable.rom.H 0b0000001#7) = .miss) := by decide

theorem test_witness_DecIsTheMergeOfItsThreeStages : State.reset.rom.Built := built

theorem test_witness_DecFlipsAtMostOnePositionAndEndsOnACodeword :
    State.reset.rom.Built ∧ (answerTo State.reset.rom (.dec 0b1001010#7 0)).hit = true ∧
      (2 : Position).val = (answerTo State.reset.rom (.dec 0b1001010#7 0)).pos.toNat := by decide

theorem test_witness_DecReturnsTheNearestCodeword :
    State.reset.rom.Built ∧ ValidCodeword State.reset.rom.G 0b1011010#7 ∧ distance 0b1011010#7 0b1001010#7 ≤ 1 ∧
      ValidCodeword State.reset.rom.G 0b0000000#7 ∧
      0b0000000#7 ≠ (answerTo State.reset.rom (.dec 0b1001010#7 0)).res :=
  ⟨built, ⟨0b1011#4, by decide⟩, by decide, ⟨0, by decide⟩, by decide⟩

theorem test_witness_RoundTripAndSingleErrorCorrection : State.reset.rom.Built := built

theorem test_witness_TwoFlipsAreSilentlyMiscorrected : State.reset.rom.Built ∧ (5 : Position) ≠ 6 := by decide

theorem test_witness_DecIsIdempotentOnItsOwnResult : State.reset.rom.Built := built

theorem test_witness_DecReportsOneOfThePatternsOfTheResultTuple : State.reset.rom.Built := built

theorem test_witness_AMustBeZeroBitRaisesContractViolation :
    (0b001#3 ≠ 0 ∨ 0b0000000#7 ≠ 0) ∧ (0b000#3 ≠ 0 ∨ 0b1000000#7 ≠ 0) ∧ 0b0000001#7 ≠ 0 ∧
      (0b1000#4 ≠ 0 ∨ 0b0000000#7 ≠ 0) ∧ (0b0000#4 ≠ 0 ∨ 0b0000001#7 ≠ 0) := by decide

theorem test_witness_AReservedOpRaisesIllegalOp :
    (presenting [0x14000#17]).commands = 0x14000#17 :: [] ∧ 5 ≤ (BitVec.extractLsb' 14 3 0x14000#17).toNat ∧
      (presenting [0x1FFFF#17]).commands = 0x1FFFF#17 :: [] ∧ 5 ≤ (BitVec.extractLsb' 14 3 0x1FFFF#17).toNat := by
  decide

theorem test_witness_TheFaultFieldClassifiesEveryCommandWord :
    (respond State.reset.rom 0x14000#17).fault = some .illegalOp ∧
      (respond State.reset.rom 0x02000#17).fault = some .contractViolation ∧
      (respond State.reset.rom 0x08184#17).fault = some .contractViolation ∧
      (respond State.reset.rom 0x0FFFF#17).fault = none := by decide

theorem test_witness_ARunIsSafeExactlyWhenItsCommandsKeepTheContract :
    ∃ t, Host.Core.run core (presenting [0x00580#17, 0x12501#17]).commands.length
      (presenting [0x00580#17, 0x12501#17]) = .next t := ⟨_, rfl⟩

theorem test_witness_AStepRunsTheDecodedInstruction :
    (presenting [0x08180#17]).commands = 0x08180#17 :: [] ∧ decode 0x08180#17 = .ok (.loc 0 0b011#3 0) := by decide

theorem test_witness_WithoutACommandNothingHappens : State.reset.commands = [] := by decide

theorem test_witness_AStepAnswersRespond : (presenting [0x0E510#17, 0]).commands = 0x0E510#17 :: [0] := by decide

theorem test_witness_TheResponseDependsOnTheCommandAndTheConfigurationAlone :
    (presenting [0x06500#17]).rom.Built ∧ ((presenting [0x06500#17, 0x14000#17]).takeFault .illegalOp).rom.Built ∧
      (presenting [0x06500#17]).rom.G = ((presenting [0x06500#17, 0x14000#17]).takeFault .illegalOp).rom.G ∧
      (presenting [0x06500#17]).rom.H = ((presenting [0x06500#17, 0x14000#17]).takeFault .illegalOp).rom.H ∧
      (presenting [0x06500#17]).commands = 0x06500#17 :: [] ∧
      ((presenting [0x06500#17, 0x14000#17]).takeFault .illegalOp).commands = 0x06500#17 :: [0x14000#17] := by decide

theorem test_witness_ReorderingCommandsReordersResponses :
    (presenting [0x00580#17, 0x14000#17]).rom = (presenting [0x14000#17, 0x00580#17]).rom ∧
      (presenting [0x00580#17, 0x14000#17]).responses = [] ∧ (presenting [0x14000#17, 0x00580#17]).responses = [] ∧
      [0x00580#17, 0x14000#17].Perm [0x14000#17, 0x00580#17] ∧
      (∃ t, Host.Core.run core 2 (presenting [0x00580#17, 0x14000#17]) = .next t) ∧
      (∃ t, Host.Core.run core 2 (presenting [0x14000#17, 0x00580#17]) = .next t) :=
  ⟨rfl, rfl, rfl, .swap _ _ _, ⟨_, rfl⟩, ⟨_, rfl⟩⟩

theorem test_witness_InterleavedHostsGetTheirOwnResponses :
    State.reset.responses = [] ∧
      (∃ t, Host.Core.run core 2 (presenting ([(0, 0x00580#17), (1, 0x12500#17)].map (·.2))) = .next t) ∧
      (∃ t, Host.Core.run core 1
        (presenting (([(0, 0x00580#17), (1, 0x12500#17)].filter (·.1 == 1)).map (·.2))) = .next t) :=
  ⟨rfl, ⟨_, rfl⟩, ⟨_, rfl⟩⟩

theorem test_witness_TheResponsesDetermineTheConstants :
    ∀ w : Command, respond (Rom.ofConfig defaultConfig) w = respond State.reset.rom w := fun _ => rfl

theorem test_witness_DecodeAcceptsExactlyTheFiveOperations :
    (BitVec.extractLsb' 14 3 0x13F80#17).toNat < 5 ∧ 5 ≤ (BitVec.extractLsb' 14 3 0x14000#17).toNat := by decide

theorem test_witness_TheOpcodeTableSelectsOneRow :
    decode 0x13F80#17 = .ok (.dec 0b1111111#7 0) ∧ 0x13F80#17 &&& 0x1C000#17 = matchWord (.dec 0 0) ∧
      matchWord (.dec 0 0) = matchWord (.dec 0b1111111#7 0) := by decide

theorem test_witness_ResponseWordsCarryExactlyTheirFields :
    unpack 0x05ABBA#21 = some { res := 0b1011010#7, data := 0b1011#4, errDet := true, syn := 0b011#3, hit := true,
                                pos := 2#3 } := by decide

theorem test_witness_AssembledTextNeverViolatesTheContract :
    parseLine ['L', 'O', 'C', ' ', '0', '1', '1'] = some (.command (.loc 0 0b011#3 0)) := by decide

theorem test_witness_AssemblingTheLineOfAnInstructionGivesItBack : (Instr.dec 0b1001010#7 0).wellFormed = true := by
  decide

theorem test_witness_ValueToBitsIsMostSignificantFirstAndTruncates : 3 < 4 ∧ (valueToBits 5 4)[3]? = some true := by
  decide

theorem test_witness_TheChannelAtProbabilityZeroAndOne :
    (∃ q : Probability, q.value = 0) ∧ (∃ q : Probability, q.value = 1 ∧ (drawAtOne.draw () q).1 = true) :=
  ⟨⟨{ value := 0, nonneg := by decide, le_one := by decide }, rfl⟩,
    ⟨{ value := 1, nonneg := by decide, le_one := by decide }, rfl, by decide⟩⟩

theorem test_witness_WhateverTheChannelDrawsTheDataComesBack :
    (presenting [encode (.enc 0 0b1011#4 0)]).rom.Built ∧
      (presenting [encode (.enc 0 0b1011#4 0)]).commands = encode (.enc 0 0b1011#4 0) :: [] := by decide

end Sys2Proof.Tests
end

/-! SUPPORT and PROOFS. The laws of the code, the table and the responses that the statements of spec/00_scope.md rest
on, and the theorems that settle those statements. -/

namespace Sys2Proof.Proofs

open Sys2Proof.Machine Sys2Proof.Laws

/-! ## The two matrix products are linear (R13, R14) -/

section Linearity

variable (G : GMatrix) (H : HMatrix)

@[simp] theorem bit_ite_zero {w : Nat} (b : Bool) (v : BitVec w) (i : Fin w) :
    bit (if b then v else 0#w) i = (b && bit v i) := by
  cases b <;> simp

/-- R19 (b). -/
theorem matvecH_xor (r d : Vec7) : matvecH H (r ^^^ d) = matvecH H r ^^^ matvecH H d :=
  eq_of_bit_eq fun i => by simp [dot_xor]

theorem matvecH_zero : matvecH H 0 = 0 := eq_of_bit_eq fun i => by simp [dot]

theorem matvecH_ite_zero (b : Bool) (v : Vec7) :
    matvecH H (if b then v else 0) = if b then matvecH H v else 0 := by
  cases b
  · exact matvecH_zero H
  · rfl

/-- R19 (c). -/
theorem matvecH_unit (p : Position) : matvecH H (unit p) = colH H p :=
  eq_of_bit_eq fun i => by simp [dot_unit, entryH]

/-- The message times `G` is the sum of the rows of `G` the message selects (R14). -/
theorem vecmatG_eq_rows (m : Message) :
    vecmatG G m = (if bit m 0 then G.get 0 else 0) ^^^ (if bit m 1 then G.get 1 else 0) ^^^
      (if bit m 2 then G.get 2 else 0) ^^^ (if bit m 3 then G.get 3 else 0) :=
  eq_of_bit_eq fun j => by simp [entryG]

end Linearity

/-! ## A vector is its data positions and its parity positions -/

/-- The last three positions of a vector: the part a row of `G` has in its right block (R9). -/
abbrev lastThree (v : Vec7) : BitVec 3 := v.extractLsb' 0 3

theorem bit_firstFour : ∀ (v : Vec7) (i : Fin 4), bit (firstFour v) i = bit v (i.castLE (by decide)) := by decide

theorem firstFour_xor (u v : Vec7) : firstFour (u ^^^ v) = firstFour u ^^^ firstFour v :=
  eq_of_bit_eq fun i => by simp [bit_firstFour]

theorem lastThree_xor (u v : Vec7) : lastThree (u ^^^ v) = lastThree u ^^^ lastThree v :=
  BitVec.extractLsb'_xor

theorem weight_eq_add : ∀ v : Vec7, weight v = weight (firstFour v) + weight (lastThree v) := by decide

/-- A vector with one 1 bit in its data positions is that position and its parity positions. -/
theorem eq_unit_xor_parity_units : ∀ (v : Vec7) (k : Fin 4), firstFour v = 0b1000#4 >>> k.val →
    v = unit (k.castLE (by decide)) ^^^ (if bit v 4 then unit 4 else 0) ^^^ (if bit v 5 then unit 5 else 0) ^^^
      (if bit v 6 then unit 6 else 0) := by decide

/-- A non-zero vector of weight below 3 is one flip or two. -/
theorem unit_or_two_units_of_weight_lt_three : ∀ v : Vec7, v ≠ 0 → weight v < 3 →
    ∃ p, v = unit p ∨ ∃ q, p ≠ q ∧ v = unit p ^^^ unit q := by decide

/-! ## The laws of `WF` (R7, R19) -/

section WellFormed

variable {G : GMatrix} {H : HMatrix} (hG : W2 G) (hGH : W3 G H) (hH : W4 H)

include hGH in
/-- W3 says that every row of `G` has syndrome 000. -/
theorem matvecH_row (k : Fin 4) : matvecH H (G.get k) = 0 :=
  eq_of_bit_eq fun i => by simpa using hGH i k

include hGH in
/-- R19 (a). -/
theorem matvecH_vecmatG (m : Message) : matvecH H (vecmatG G m) = 0 := by
  simp only [vecmatG_eq_rows, matvecH_xor, matvecH_ite_zero, matvecH_row hGH, ite_self]
  decide

include hGH in
/-- R19 (d). -/
theorem matvecH_vecmatG_xor_unit (m : Message) (p : Position) :
    matvecH H (vecmatG G m ^^^ unit p) = colH H p := by
  simp [matvecH_xor, matvecH_vecmatG hGH, matvecH_unit]

include hG in
/-- R19 (e). -/
theorem firstFour_vecmatG (m : Message) : firstFour (vecmatG G m) = m := by
  refine eq_of_bit_eq fun i => ?_
  rw [bit_firstFour, bit_vecmatG, hG, hG, hG, hG]
  fin_cases i <;> simp

include hH in
/-- No vector of weight 1 or 2 has syndrome 000: a column of `H` would be 000, or two columns equal (R19 (f)). -/
theorem three_le_weight {d : Vec7} (hd : matvecH H d = 0) (hne : d ≠ 0) : 3 ≤ weight d := by
  obtain ⟨hinj, hcol⟩ := hH
  by_contra hlt
  obtain ⟨p, rfl | ⟨q, hpq, rfl⟩⟩ := unit_or_two_units_of_weight_lt_three d hne (by omega)
  · exact hcol p (matvecH_unit H p ▸ hd)
  · rw [matvecH_xor, matvecH_unit, matvecH_unit] at hd
    exact hpq (hinj p q (BitVec.xor_eq_zero_iff.mp hd))

include hG hGH hH in
/-- R19 (f). -/
theorem three_le_distance {m n : Message} (hmn : m ≠ n) : 3 ≤ distance (vecmatG G m) (vecmatG G n) := by
  refine three_le_weight hH ?_ fun h0 => hmn ?_
  · simp [matvecH_xor, matvecH_vecmatG hGH]
  · rw [← firstFour_vecmatG hG m, BitVec.xor_eq_zero_iff.mp h0, firstFour_vecmatG hG]

/-! ## The parity block (R9) -/

include hG in
theorem firstFour_row (k : Fin 4) : firstFour (G.get k) = 0b1000#4 >>> k.val := by
  refine eq_of_bit_eq fun i => ?_
  rw [bit_firstFour]
  exact (hG k i).trans (by revert k i; decide)

include hH in
/-- A vector of syndrome 000 that is not zero in its data positions has at least three 1 bits, so what the data
positions do not hold the parity positions do. -/
theorem three_le_weight_add {d : Vec7} (hd : matvecH H d = 0) (hdata : firstFour d ≠ 0) :
    3 ≤ weight (firstFour d) + weight (lastThree d) := by
  rw [← weight_eq_add]
  exact three_le_weight hH hd (by rintro rfl; exact hdata (by decide))

include hG hGH hH in
/-- R9: the right block has rows of weight 2 or 3. -/
theorem two_le_weight_lastThree_row (k : Fin 4) : 2 ≤ weight (lastThree (G.get k)) := by
  have one : ∀ k : Fin 4, (0b1000#4 >>> k.val) ≠ 0 ∧ weight (0b1000#4 >>> k.val) = 1 := by decide
  obtain ⟨hne, hone⟩ := one k
  have h := three_le_weight_add hH (matvecH_row hGH k) (by rwa [firstFour_row hG])
  rw [firstFour_row hG, hone] at h
  omega

include hG hGH hH in
/-- R9: the rows of the right block are pairwise different; two equal ones would sum to weight 2. -/
theorem lastThree_row_injective {k l : Fin 4} (h : lastThree (G.get k) = lastThree (G.get l)) : k = l := by
  have two : ∀ k l : Fin 4, k ≠ l → (0b1000#4 >>> k.val ^^^ 0b1000#4 >>> l.val) ≠ 0 ∧
      weight (0b1000#4 >>> k.val ^^^ 0b1000#4 >>> l.val) = 2 := by decide
  by_contra hkl
  obtain ⟨hne, htwo⟩ := two k l hkl
  have hdata : firstFour (G.get k ^^^ G.get l) = 0b1000#4 >>> k.val ^^^ 0b1000#4 >>> l.val := by
    rw [firstFour_xor, firstFour_row hG, firstFour_row hG]
  have hparity : weight (lastThree (G.get k ^^^ G.get l)) = 0 := by
    rw [lastThree_xor, h, BitVec.xor_self]; decide
  have h3 := three_le_weight_add (d := G.get k ^^^ G.get l) hH
    (by simp [matvecH_xor, matvecH_row hGH]) (by rwa [hdata])
  rw [hdata, htwo, hparity] at h3
  omega

include hG hGH in
/-- R9: the first four columns of `H` are the sums of its last three that the right block names. -/
theorem colH_eq_parity_columns (k : Fin 4) :
    colH H (k.castLE (by decide)) =
      (if entryG G k 4 then colH H 4 else 0) ^^^ (if entryG G k 5 then colH H 5 else 0) ^^^
        (if entryG G k 6 then colH H 6 else 0) := by
  have h := matvecH_row hGH k
  rw [eq_unit_xor_parity_units (G.get k) k (firstFour_row hG k)] at h
  simp only [matvecH_xor, matvecH_ite_zero, matvecH_unit, BitVec.xor_assoc] at h
  rw [BitVec.xor_assoc]
  exact BitVec.xor_eq_zero_iff.mp h

include hG hGH hH in
/-- R9: the last three columns do not sum to 000. Else row 0 of `G` plus the three parity flips had syndrome 000, at
weight 2 or less. -/
theorem colH_parity_xor_ne_zero : colH H 4 ^^^ colH H 5 ^^^ colH H 6 ≠ 0 := by
  have flipAll : ∀ v : BitVec 3, weight (v ^^^ 0b111#3) + weight v = 3 := by decide
  intro h0
  have hsyn : matvecH H (G.get 0 ^^^ 0b0000111#7) = 0 := by
    have hunits : 0b0000111#7 = unit 4 ^^^ unit 5 ^^^ unit 6 := by decide
    rw [matvecH_xor, matvecH_row hGH, hunits, matvecH_xor, matvecH_xor, matvecH_unit, matvecH_unit, matvecH_unit, h0]
    decide
  have hdata : firstFour (G.get 0 ^^^ 0b0000111#7) = 0b1000#4 := by
    rw [firstFour_xor, firstFour_row hG]; decide
  have hparity : lastThree (G.get 0 ^^^ 0b0000111#7) = lastThree (G.get 0) ^^^ 0b111#3 := by
    rw [lastThree_xor]; rfl
  have h3 := three_le_weight_add hH hsyn (by rw [hdata]; decide)
  have hone : weight 0b1000#4 = 1 := by decide
  have hrow := two_le_weight_lastThree_row hG hGH hH 0
  have hall := flipAll (lastThree (G.get 0))
  rw [hdata, hparity, hone] at h3
  omega

include hH in
theorem colH_xor_ne_zero {p q : Position} (hpq : p ≠ q) : colH H p ^^^ colH H q ≠ 0 := by
  obtain ⟨hinj, -⟩ := hH
  exact fun h => hpq (hinj p q (BitVec.xor_eq_zero_iff.mp h))

/-! ## The valid codewords are the vectors of syndrome 000, and every vector is at most one flip from one -/

include hG hGH hH in
/-- A vector of syndrome 000 is the codeword of its own first four positions. -/
theorem vecmatG_firstFour {r : Vec7} (hr : matvecH H r = 0) : vecmatG G (firstFour r) = r := by
  have parityOnly : ∀ d : Vec7, firstFour d = 0 → 3 ≤ weight d → d = unit 4 ^^^ unit 5 ^^^ unit 6 := by decide
  have hdata : firstFour (vecmatG G (firstFour r) ^^^ r) = 0 := by
    rw [firstFour_xor, firstFour_vecmatG hG, BitVec.xor_self]; rfl
  have hsyn : matvecH H (vecmatG G (firstFour r) ^^^ r) = 0 := by
    simp [matvecH_xor, matvecH_vecmatG hGH, hr]
  by_contra hne
  have hd := parityOnly _ hdata (three_le_weight hH hsyn fun h0 => hne (BitVec.xor_eq_zero_iff.mp h0))
  rw [hd, matvecH_xor, matvecH_xor, matvecH_unit, matvecH_unit, matvecH_unit] at hsyn
  exact colH_parity_xor_ne_zero hG hGH hH hsyn

include hG hGH hH in
theorem matvecH_eq_zero_iff {r : Vec7} : matvecH H r = 0 ↔ ValidCodeword G r :=
  ⟨fun hr => ⟨firstFour r, vecmatG_firstFour hG hGH hH hr⟩, by rintro ⟨m, rfl⟩; exact matvecH_vecmatG hGH m⟩

include hH in
/-- Seven distinct columns, none 000, are all seven non-zero syndromes. -/
theorem exists_colH_eq {syn : Syndrome} (hsyn : syn ≠ 0) : ∃ p, colH H p = syn := by
  obtain ⟨hinj, hcol⟩ := hH
  have hcard : Fintype.card Position = Fintype.card {syn : Syndrome // syn ≠ 0} := by decide
  have honto : Function.Surjective fun p => (⟨colH H p, hcol p⟩ : {syn : Syndrome // syn ≠ 0}) :=
    ((Fintype.bijective_iff_injective_and_card _).mpr
      ⟨fun p q h => hinj p q (congrArg Subtype.val h), hcard⟩).surjective
  obtain ⟨p, hp⟩ := honto ⟨syn, hsyn⟩
  exact ⟨p, congrArg Subtype.val hp⟩

include hG hGH hH in
/-- R134: every vector is a valid codeword or one flip from one. -/
theorem codeword_or_flipped_codeword (r : Vec7) :
    ValidCodeword G r ∨ ∃ c p, ValidCodeword G c ∧ r = c ^^^ unit p := by
  by_cases hr : matvecH H r = 0
  · exact .inl ((matvecH_eq_zero_iff hG hGH hH).mp hr)
  · obtain ⟨p, hp⟩ := exists_colH_eq hH hr
    refine .inr ⟨r ^^^ unit p, p, (matvecH_eq_zero_iff hG hGH hH).mp ?_, ?_⟩
    · rw [matvecH_xor, matvecH_unit, hp, BitVec.xor_self]; rfl
    · rw [BitVec.xor_assoc, BitVec.xor_self]; exact BitVec.xor_zero.symm

/-! ## The table of `H` (R23) -/

include hH in
theorem readTable_buildTable_colH (p : Position) : readTable (buildTable H) (colH H p) = .hit p := by
  obtain ⟨hinj, -⟩ := hH
  have hcol : ∀ i : Position, colH H i = colH H p ↔ i = p := fun i => ⟨hinj i p, congrArg _⟩
  simp only [buildTable, List.foldl, readTable_recordColumn, hcol]
  fin_cases p <;> rfl

end WellFormed

/-! ## The response of an instruction (R71) -/

/-- The first operand field of an instruction's word (R64). -/
def aOperand : Instr → BitVec 7
  | .enc aMbz m _ => aMbz ++ m
  | .syn r _ => r
  | .loc aMbz s _ => aMbz ++ s
  | .cor r _ => r
  | .dec r _ => r

/-- The second operand field of an instruction's word (R64). -/
def bOperand : Instr → BitVec 7
  | .enc _ _ bMbz => bMbz
  | .syn _ bMbz => bMbz
  | .loc _ _ bMbz => bMbz
  | .cor _ k => k
  | .dec _ bMbz => bMbz

/-- What an operation computes when its must-be-zero bits are clear (R90, R100, R110, R120, R131). -/
def resultOf (rom : Rom) : Instr → Response
  | .enc _ m _ => encResponse rom m
  | .syn r _ => synResponse rom r
  | .loc _ s _ => locResponse rom s
  | .cor r k => corResponse r k
  | .dec r _ => decResponse rom r

/-- The response to an instruction: its result, or `ContractViolation` (R168). -/
def responseOf (rom : Rom) (i : Instr) : Response :=
  if i.wellFormed then resultOf rom i else faultResponse .contractViolation

theorem encode_eq_fields (i : Instr) : encode i = i.op ++ aOperand i ++ bOperand i := by
  cases i with
  | enc => exact congrArg (· ++ _) BitVec.append_assoc
  | loc => exact congrArg (· ++ _) BitVec.append_assoc
  | syn | cor | dec => rfl

@[simp] theorem opField_encode (i : Instr) : opField (encode i) = i.op := by
  rw [encode_eq_fields, opField_append]

@[simp] theorem aField_encode (i : Instr) : aField (encode i) = aOperand i := by
  rw [encode_eq_fields, aField_append]

@[simp] theorem bField_encode (i : Instr) : bField (encode i) = bOperand i := by
  rw [encode_eq_fields, bField_append]

/-- Every operation ends in the response of its instruction and changes nothing else. -/
theorem exec_eq (i : Instr) (s : State) : exec i s = .next (s.answer (responseOf s.rom i)) := by
  cases i with
  | cor => rfl
  | enc | syn | loc | dec => exact answerIfClear_eq _ _ s

theorem fields_and_eq_zero_iff (op : BitVec 3) (a b x y : BitVec 7) :
    (op ++ a ++ b) &&& (0#3 ++ x ++ y) = 0 ↔ a &&& x = 0 ∧ b &&& y = 0 := by
  rw [BitVec.and_append, BitVec.and_append, BitVec.and_zero]
  constructor
  · intro h
    refine ⟨?_, ?_⟩
    · rw [← aField_append 0#3 (a &&& x) (b &&& y), h]; rfl
    · rw [← bField_append 0#3 (a &&& x) (b &&& y), h]; rfl
  · rintro ⟨ha, hb⟩
    rw [ha, hb]; rfl

/-- An instruction's word has a bit of `mbz(op)` exactly when the instruction is not well-formed (R64). -/
theorem encode_and_mbzMask_eq_zero_iff (i : Instr) : encode i &&& mbzMask i.op = 0 ↔ i.wellFormed = true := by
  have clearHigh3 : ∀ (x : BitVec 3) (m : Message), (x ++ m) &&& 0b1110000#7 = 0 ↔ x = 0 := by decide
  have clearHigh4 : ∀ (x : BitVec 4) (s : Syndrome), (x ++ s) &&& 0b1111000#7 = 0 ↔ x = 0 := by decide
  have clearAll : ∀ b : BitVec 7, b &&& 0b1111111#7 = 0 ↔ b = 0 := by decide
  rw [encode_eq_fields]
  cases i with
  | enc x m b =>
    refine (fields_and_eq_zero_iff _ (x ++ m) b 0b1110000#7 0b1111111#7).trans ?_
    rw [clearHigh3, clearAll]
    simp [Instr.wellFormed]
  | syn r b =>
    refine (fields_and_eq_zero_iff _ r b 0#7 0b1111111#7).trans ?_
    rw [clearAll]
    simp [Instr.wellFormed]
  | loc x s b =>
    refine (fields_and_eq_zero_iff _ (x ++ s) b 0b1111000#7 0b1111111#7).trans ?_
    rw [clearHigh4, clearAll]
    simp [Instr.wellFormed]
  | cor r k =>
    refine (fields_and_eq_zero_iff _ r k 0#7 0#7).trans ?_
    simp [Instr.wellFormed]
  | dec r b =>
    refine (fields_and_eq_zero_iff _ r b 0#7 0b1111111#7).trans ?_
    rw [clearAll]
    simp [Instr.wellFormed]

theorem op_toNat_lt (i : Instr) : i.op.toNat < 5 := by
  cases i <;> simp [Instr.op]

theorem respond_encode (rom : Rom) (i : Instr) : respond rom (encode i) = responseOf rom i := by
  have hop : ¬ i.op.toNat ≥ 5 := Nat.not_le.mpr (op_toNat_lt i)
  simp only [respond, responseOf, opField_encode, aField_encode, bField_encode, if_neg hop, ne_eq,
    encode_and_mbzMask_eq_zero_iff, ite_not]
  congr 1
  cases i with
  | enc x m b => exact congrArg (encResponse rom) BitVec.extractLsb'_append_eq_right
  | loc x s b => exact congrArg (locResponse rom) BitVec.extractLsb'_append_eq_right
  | syn | cor | dec => rfl

theorem answerTo_enc (rom : Rom) (m : Message) : answerTo rom (.enc 0 m 0) = encResponse rom m :=
  respond_encode rom (.enc 0 m 0)

theorem answerTo_dec (rom : Rom) (r : Vec7) : answerTo rom (.dec r 0) = decResponse rom r :=
  respond_encode rom (.dec r 0)

/-! ## A step answers `respond` (R71) -/

theorem encode_eq_of_fields {i : Instr} {w : Command} (hop : i.op = opField w) (ha : aOperand i = aField w)
    (hb : bOperand i = bField w) : encode i = w := by
  rw [encode_eq_fields, hop, ha, hb, append_fields]

/-- A word with a defined operation is the word of the instruction it decodes to (R65). -/
theorem encode_of_decode {w : Command} {i : Instr} (h : decode w = .ok i) : encode i = w := by
  have join3 : ∀ a : BitVec 7, a.extractLsb' 4 3 ++ a.extractLsb' 0 4 = a := by decide
  have join4 : ∀ a : BitVec 7, a.extractLsb' 3 4 ++ a.extractLsb' 0 3 = a := by decide
  unfold decode at h
  split at h <;> cases h
  case h_1 hop => exact encode_eq_of_fields (BitVec.eq_of_toNat_eq hop.symm) (join3 _) rfl
  case h_2 hop => exact encode_eq_of_fields (BitVec.eq_of_toNat_eq hop.symm) rfl rfl
  case h_3 hop => exact encode_eq_of_fields (BitVec.eq_of_toNat_eq hop.symm) (join4 _) rfl
  case h_4 hop => exact encode_eq_of_fields (BitVec.eq_of_toNat_eq hop.symm) rfl rfl
  case h_5 hop => exact encode_eq_of_fields (BitVec.eq_of_toNat_eq hop.symm) rfl rfl

theorem respond_of_decode_error (rom : Rom) {w : Command} {e : DecodeReject} (h : decode w = .error e) :
    respond rom w = faultResponse (rejectFault e) := by
  unfold decode at h
  split at h <;> cases h
  case h_6 =>
    have hop : (opField w).toNat ≥ 5 := by
      simp only [imp_false] at *
      omega
    exact if_pos hop

/-- The machine's decoding and execution give the response of the pseudocode (R71). -/
theorem answerCommand_eq (w : Command) (s : State) : answerCommand w s = .next (s.answer (respond s.rom w)) := by
  unfold answerCommand
  cases h : decode w with
  | ok i => rw [← encode_of_decode h, respond_encode]; exact exec_eq i s
  | error e => rw [respond_of_decode_error s.rom h]; rfl

theorem step_of_nil {s : State} (h : s.commands = []) : step s = .next s := by
  rw [step, fetch_of_nil h, idle]

theorem step_of_cons {s : State} {w : Command} {rest : List Command} (h : s.commands = w :: rest) :
    step s = .next { s with commands := rest, responses := s.responses ++ [respond s.rom w] } := by
  rw [step, fetch_of_cons h]
  exact answerCommand_eq w _

/-! ## Runs (R18) -/

theorem run_succ_of_next {M : Host.Core} {s t : M.State} (h : M.step s = .next t) (n : Nat) :
    M.run (n + 1) s = M.run n t := by
  rw [Host.Core.run, h]

theorem run_length_of_commands (cs : List Command) : ∀ s : State, s.commands = cs →
    Host.Core.run core cs.length s =
      .next { s with commands := [], responses := s.responses ++ cs.map (respond s.rom) } := by
  induction cs with
  | nil =>
    intro s h
    cases s
    cases h
    rw [List.map_nil, List.append_nil]
    rfl
  | cons w rest ih =>
    intro s h
    refine (run_succ_of_next (M := core) (step_of_cons h) rest.length).trans ?_
    rw [ih _ rfl, List.map_cons, List.append_assoc, List.singleton_append]

/-! ## The responses of a built block -/

section BuiltBlock

variable {rom : Rom} (h : rom.Built)

include h in
/-- `DEC` of a valid codeword detects nothing and returns it (R131). -/
theorem decResponse_codeword {c : Vec7} (hc : ValidCodeword rom.G c) :
    decResponse rom c = decResult 0 false false noPosition c := by
  obtain ⟨⟨hG, hGH, hH⟩, -⟩ := h
  have hsyn : matvecH rom.H c = 0 := (matvecH_eq_zero_iff hG hGH hH).mpr hc
  simp only [decResponse, hsyn, if_true]

include h in
/-- `DEC` of a valid codeword with one flip locates the flip and returns the codeword (R131). -/
theorem decResponse_flipped_codeword {c : Vec7} (hc : ValidCodeword rom.G c) (p : Position) :
    decResponse rom (c ^^^ unit p) = decResult (colH rom.H p) true true (posField p) c := by
  obtain ⟨⟨-, hGH, hH⟩, hT⟩ := h
  obtain ⟨m, rfl⟩ := hc
  have ⟨_, hcol⟩ := hH
  simp only [decResponse, matvecH_vecmatG_xor_unit hGH, if_neg (hcol p), hT, readTable_buildTable_colH hH]
  rw [BitVec.xor_assoc, BitVec.xor_self, BitVec.xor_zero]

end BuiltBlock

/-! ## Vectors and their values (R12, R145, R146) -/

theorem positions_eq_valueToBits {w : Nat} (v : BitVec w) : positions v = valueToBits v.toNat w := by
  refine List.ext_getElem (by simp [positions, valueToBits]) fun i hi _ => ?_
  have hw : i < w := by simpa [positions] using hi
  simp [positions, valueToBits, bit, BitVec.getMsbD, hw, BitVec.getLsbD, Nat.testBit_eq_decide_div_mod_eq,
    beq_eq_decide]

theorem valueToBits_succ (x w : Nat) : valueToBits x (w + 1) = valueToBits (x / 2) w ++ [x % 2 == 1] := by
  have shift : ∀ i ∈ List.range w, (x / 2 ^ (w + 1 - 1 - i) % 2 == 1) = (x / 2 / 2 ^ (w - 1 - i) % 2 == 1) := by
    intro i hi
    have hexp : w + 1 - 1 - i = w - 1 - i + 1 := by have := List.mem_range.mp hi; omega
    rw [hexp, Nat.pow_succ', Nat.div_div_eq_div_mul]
  rw [valueToBits, List.range_succ, List.map_append, List.map_congr_left shift]
  simp [valueToBits]

theorem bitsToValue_append_singleton (bits : List Bool) (b : Bool) :
    bitsToValue (bits ++ [b]) = 2 * bitsToValue bits + b.toNat := by
  simp [bitsToValue]

theorem bitsToValue_valueToBits (x w : Nat) : bitsToValue (valueToBits x w) = x % 2 ^ w := by
  induction w generalizing x with
  | zero => simp [valueToBits, bitsToValue, Nat.mod_one]
  | succ w ih =>
    have hbit : (x % 2 == 1).toNat = x % 2 := by
      rcases Nat.mod_two_eq_zero_or_one x with h | h <;> simp [h]
    rw [valueToBits_succ, bitsToValue_append_singleton, ih, hbit, Nat.pow_succ', Nat.mod_mul, Nat.add_comm]

/-! ## Construction and reset (R8, R30, R192) -/

theorem inv_ofConfig {c : Config} (h : WF c) : (State.ofConfig c).Inv :=
  ⟨⟨h, rfl⟩, fun _ hr => absurd hr List.not_mem_nil⟩

theorem wf_defaultConfig : WF defaultConfig := by decide

/-! ## The statements of spec/00_scope.md -/

/-- Settles O5, from linearity of the two products and the three conditions of `WF`. -/
theorem lawsOfEveryWellFormedConfiguration : Obligations.LawsOfEveryWellFormedConfiguration := by
  rintro c ⟨hG, hGH, hH⟩
  have ⟨hinj, hcol⟩ := hH
  exact ⟨matvecH_vecmatG hGH, matvecH_xor c.H, matvecH_unit c.H,
    fun m p => ⟨matvecH_vecmatG_xor_unit hGH m p, hcol p⟩, hinj, firstFour_vecmatG hG,
    fun _ _ => three_le_distance hG hGH hH⟩

/-- Settles O6, from the weights of the rows of `G` and of their sums: none of syndrome 000 is below 3. -/
theorem parityBlockOfAWellFormedConfiguration : Obligations.ParityBlockOfAWellFormedConfiguration := by
  rintro c ⟨hG, hGH, hH⟩
  exact ⟨two_le_weight_lastThree_row hG hGH hH, fun _ _ => lastThree_row_injective hG hGH hH,
    colH_eq_parity_columns hG hGH, colH_parity_xor_ne_zero hG hGH hH, colH_xor_ne_zero hH (by decide),
    colH_xor_ne_zero hH (by decide), colH_xor_ne_zero hH (by decide)⟩

/-- Settles O7: what `DEC` returns is fixed by the codeword nearest to the vector, and the codewords by `G`. -/
theorem mixingTheRowsOfHChangesOnlyTheSyndrome : Obligations.MixingTheRowsOfHChangesOnlyTheSyndrome := by
  intro x y hx hy hG
  have ⟨⟨hW2, hW3, hW4⟩, _⟩ := hx
  refine ⟨fun m => by rw [answerTo_enc, answerTo_enc, encResponse, encResponse, hG], fun r => ?_⟩
  rw [answerTo_dec, answerTo_dec]
  obtain hr | ⟨c, p, hc, rfl⟩ := codeword_or_flipped_codeword hW2 hW3 hW4 r
  · rw [decResponse_codeword hx hr, decResponse_codeword hy (hG ▸ hr)]
  · rw [decResponse_flipped_codeword hx hc, decResponse_flipped_codeword hy (hG ▸ hc)]
    rfl

/-- Settles O37, by induction on the host's list, a step answering its head by `respond`. -/
theorem aRunAnswersEveryCommandInOrder : Obligations.ARunAnswersEveryCommandInOrder :=
  fun s => run_length_of_commands s.commands s rfl

/-- Settles O54: the second part position by position, the first from it by the round trip of R147. -/
theorem fieldsCarryTheirVectors : Obligations.FieldsCarryTheirVectors := by
  refine ⟨fun w v => ?_, fun w v => positions_eq_valueToBits v⟩
  rw [positions_eq_valueToBits, bitsToValue_valueToBits, Nat.mod_eq_of_lt v.isLt]

/-- Settles O1: the table is the one the loop of R23 builds from the default `H`. -/
theorem resetHoldsTheDefaultConstants : Obligations.ResetHoldsTheDefaultConstants := by
  have hT : buildTable defaultH = #v[.miss, .hit 6, .hit 5, .hit 2, .hit 4, .hit 1, .hit 0, .hit 3] := by decide
  exact ⟨rfl, rfl, hT, rfl, rfl⟩

/-- Settles O2, as for every configuration that passes `WF`. -/
theorem resetMeetsTheInvariant : Obligations.ResetMeetsTheInvariant := inv_ofConfig wf_defaultConfig

/-- Settles O35. -/
theorem withoutACommandNothingHappens : Obligations.WithoutACommandNothingHappens := fun _ => step_of_nil

end Sys2Proof.Proofs

/-! SUPPORT and PROOFS. What a step can do, the legal form of every response, and how the responses give the constants
back; then the theorems that settle the statements of spec/10_state.md. -/

namespace Sys2Proof.Proofs

open Sys2Proof.Machine Sys2Proof.Laws

/-! ## What a step and a run can do (R17, R20) -/

/-- A step either finds no command and changes nothing, or takes the next one and answers it by `respond`. -/
theorem step_cases (s : State) :
    (s.commands = [] ∧ step s = .next s) ∨
    ∃ w rest, s.commands = w :: rest ∧
      step s = .next { s with commands := rest, responses := s.responses ++ [respond s.rom w] } := by
  cases h : s.commands with
  | nil => exact .inl ⟨rfl, step_of_nil h⟩
  | cons w rest => exact .inr ⟨w, rest, rfl, step_of_cons h⟩

theorem exists_step_eq_next_rom_eq (s : State) : ∃ t, step s = .next t ∧ t.rom = s.rom := by
  obtain ⟨-, hs⟩ | ⟨w, rest, -, hs⟩ := step_cases s
  · exact ⟨s, hs, rfl⟩
  · exact ⟨_, hs, rfl⟩

/-! ## No operation's own result is a fault (R168) -/

theorem decResponse_fault (rom : Rom) (r : Vec7) : (decResponse rom r).fault = none := by
  unfold decResponse
  dsimp only
  split
  · rfl
  · split <;> rfl

@[simp] theorem resultOf_fault (rom : Rom) (i : Instr) : (resultOf rom i).fault = none := by
  cases i with
  | dec r _ => exact decResponse_fault rom r
  | enc | syn | loc | cor => rfl

theorem responseOf_fault_eq_none_iff (rom : Rom) (i : Instr) :
    (responseOf rom i).fault = none ↔ i.wellFormed = true := by
  unfold responseOf
  split
  · next hwf => simp [hwf]
  · next hwf => simp [hwf, faultResponse]

/-! ## Every response is of a legal form (R66 to R68, R170) -/

theorem posOf_legal (t : TableEntry) :
    (hitOf t = true → (posOf t).toNat ≤ 6) ∧ (hitOf t = false → posOf t = 0 ∨ posOf t = 7) := by
  cases t with
  | miss => decide
  | hit p => revert p; decide

theorem faultResponse_legal (f : Fault) : (faultResponse f).Legal := by
  cases f <;> decide

theorem locResponse_legal (rom : Rom) (syn : Syndrome) : (locResponse rom syn).Legal :=
  ⟨fun h => absurd rfl h, rfl, posOf_legal _⟩

/-- The three branches of R131: no error, an error located, an error not located. -/
theorem decResponse_legal (rom : Rom) (r : Vec7) : (decResponse rom r).Legal := by
  refine ⟨fun h => absurd (decResponse_fault rom r) h, ?_⟩
  unfold decResponse
  dsimp only
  split
  · next hsyn => exact ⟨by rw [decResult, hsyn]; rfl, posOf_legal .miss⟩
  · next hsyn =>
    have hdet : true = (matvecH rom.H r != 0) := (bne_iff_ne.mpr hsyn).symm
    split
    · next p _ => exact ⟨hdet, posOf_legal (.hit p)⟩
    · exact ⟨hdet, posOf_legal .miss⟩

theorem resultOf_legal (rom : Rom) (i : Instr) : (resultOf rom i).Legal := by
  cases i with
  | loc _ syn _ => exact locResponse_legal rom syn
  | dec r _ => exact decResponse_legal rom r
  | enc | syn | cor => exact ⟨fun h => absurd rfl h, rfl, fun h => (nomatch h), fun _ => .inl rfl⟩

theorem responseOf_legal (rom : Rom) (i : Instr) : (responseOf rom i).Legal := by
  unfold responseOf
  split
  · exact resultOf_legal rom i
  · exact faultResponse_legal _

/-- Every one of the command words is answered in a legal form, by a built block or any other. -/
theorem respond_legal (rom : Rom) (w : Command) : (respond rom w).Legal := by
  cases h : decode w with
  | ok i => rw [← encode_of_decode h, respond_encode]; exact responseOf_legal rom i
  | error e => rw [respond_of_decode_error rom h]; exact faultResponse_legal _

/-- The invariant speaks of the constants and the responses alone, so a legal response on top keeps it. -/
theorem inv_append_response {s : State} {r : Response} (rest : List Command) (hs : s.Inv) (hr : r.Legal) :
    State.Inv { s with commands := rest, responses := s.responses ++ [r] } := by
  obtain ⟨hbuilt, hlegal⟩ := hs
  refine ⟨hbuilt, fun q hq => ?_⟩
  obtain hq | hq := List.mem_append.mp hq
  · exact hlegal q hq
  · exact List.mem_singleton.mp hq ▸ hr

/-! ## The responses give the constants back (R27) -/

/-- The message with one 1 bit at position `k` reads row `k` of `G` (R91 (f)). -/
theorem vecmatG_single (G : GMatrix) (k : Fin 4) : vecmatG G (0b1000#4 >>> k.val) = G.get k := by
  have single : ∀ k i : Fin 4, bit (0b1000#4 >>> k.val) i = decide (i = k) := by decide
  refine eq_of_bit_eq fun j => ?_
  rw [bit_vecmatG, single, single, single, single]
  fin_cases k <;> simp [entryG]

theorem eq_of_vecmatG_eq {G G' : GMatrix} (h : ∀ m, vecmatG G m = vecmatG G' m) : G = G' :=
  Vector.ext fun k hk => by
    have hrow := h (0b1000#4 >>> k)
    exact (vecmatG_single G ⟨k, hk⟩).symm.trans (hrow.trans (vecmatG_single G' ⟨k, hk⟩))

/-- Position `i` of the syndrome of `e(p)` is the entry of row `i` at `p`. -/
theorem eq_of_matvecH_eq {H H' : HMatrix} (h : ∀ r, matvecH H r = matvecH H' r) : H = H' :=
  Vector.ext fun i hi => eq_of_bit_eq fun p => by
    have hbit := congrArg (bit · ⟨i, hi⟩) (h (unit p))
    simp only [bit_matvecH, dot_unit] at hbit
    exact hbit

/-- The field `pos` alone tells a table's entries apart: a miss is 7, a hit its position (R42). -/
theorem posOf_injective : Function.Injective posOf := by
  have hit_ne_miss : ∀ p : Position, posOf (.hit p) ≠ posOf .miss := by decide
  have hit_injective : ∀ p q : Position, posOf (.hit p) = posOf (.hit q) → p = q := by decide
  intro t u h
  cases t with
  | miss =>
    cases u with
    | miss => rfl
    | hit q => exact absurd h.symm (hit_ne_miss q)
  | hit p =>
    cases u with
    | miss => exact absurd h (hit_ne_miss p)
    | hit q => rw [hit_injective p q h]

theorem eq_of_readTable_eq {T T' : Table} (h : ∀ syn, readTable T syn = readTable T' syn) : T = T' :=
  Vector.ext fun i hi => h (BitVec.ofNatLT i hi)

theorem answerTo_syn (rom : Rom) (r : Vec7) : answerTo rom (.syn r 0) = synResponse rom r :=
  respond_encode rom (.syn r 0)

theorem answerTo_loc (rom : Rom) (syn : Syndrome) : answerTo rom (.loc 0 syn 0) = locResponse rom syn :=
  respond_encode rom (.loc 0 syn 0)

/-- `ENC`, `SYN` and `LOC` alone give `G`, `H` and `T` back. -/
theorem rom_eq_of_answerTo_eq {x y : Rom} (h : ∀ i, answerTo x i = answerTo y i) : x = y := by
  have hG : x.G = y.G := eq_of_vecmatG_eq fun m => by
    have hm := h (.enc 0 m 0)
    rw [answerTo_enc, answerTo_enc] at hm
    exact congrArg Response.res hm
  have hH : x.H = y.H := eq_of_matvecH_eq fun r => by
    have hr := h (.syn r 0)
    rw [answerTo_syn, answerTo_syn] at hr
    exact congrArg Response.syn hr
  have hT : x.T = y.T := eq_of_readTable_eq fun syn => by
    have hs := h (.loc 0 syn 0)
    rw [answerTo_loc, answerTo_loc] at hs
    exact posOf_injective (congrArg Response.pos hs)
  cases x
  cases y
  cases hG
  cases hH
  cases hT
  rfl

/-! ## Selecting one host's commands and responses (R31) -/

/-- Pairing a list with its image, selecting by the list's own elements and keeping the images, is selecting first. -/
theorem map_snd_filter_zip_map {α β : Type} (p : α → Bool) (f : α → β) (l : List α) :
    ((l.zip (l.map f)).filter (p ·.1)).map (·.2) = (l.filter p).map f := by
  have hzip : l.zip (l.map f) = l.map fun a => (a, f a) := by
    simpa using List.zip_map' (f := id) (g := f) (l := l)
  rw [hzip, List.filter_map, List.map_map]
  rfl

/-- The responses of a run that answers a list of tagged commands, from a state with no response yet. -/
theorem responses_of_tagged_run {s t : State} (tagged : List (Nat × Command)) (hs : s.responses = [])
    (h : Host.Core.run core tagged.length { s with commands := tagged.map (·.2) } = .next t) :
    t.responses = tagged.map fun c => respond s.rom c.2 := by
  have hrun := run_length_of_commands (tagged.map (·.2)) { s with commands := tagged.map (·.2) } rfl
  rw [List.length_map] at hrun
  cases h.symm.trans hrun
  rw [hs, List.nil_append, List.map_map]
  rfl

/-! ## The statements of spec/10_state.md -/

/-- Settles O3: a step adds at most one response, and every response the block gives is of a legal form. -/
theorem everyStepKeepsTheInvariant : Obligations.EveryStepKeepsTheInvariant := by
  intro s t hs hstep
  obtain ⟨-, hidle⟩ | ⟨w, rest, -, hanswer⟩ := step_cases s
  · cases hidle.symm.trans hstep
    exact hs
  · cases hanswer.symm.trans hstep
    exact inv_append_response rest hs (respond_legal s.rom w)

/-- Settles O33: the one response is the instruction's own, by the form every operation ends in. -/
theorem everyOperationAnswersOnceAndChangesNothingElse :
    Obligations.EveryOperationAnswersOnceAndChangesNothingElse :=
  fun i s => ⟨responseOf s.rom i, exec_eq i s, responseOf_fault_eq_none_iff s.rom i⟩

/-- Settles O40: both runs answer command by command, so selecting a host's commands selects its responses. -/
theorem interleavedHostsGetTheirOwnResponses : Obligations.InterleavedHostsGetTheirOwnResponses := by
  intro s shared alone tagged host hs hshared halone
  rw [responses_of_tagged_run tagged hs hshared, responses_of_tagged_run _ hs halone]
  exact (map_snd_filter_zip_map (·.1 == host) _ tagged).symm

/-- Settles O41, by induction on the number of steps. -/
theorem noRunStopsOrChangesTheConstants : Obligations.NoRunStopsOrChangesTheConstants := by
  intro n
  induction n with
  | zero => exact fun s => ⟨s, rfl, rfl⟩
  | succ n ih =>
    intro s
    obtain ⟨u, hstep, hu⟩ := exists_step_eq_next_rom_eq s
    obtain ⟨t, hrun, ht⟩ := ih u
    exact ⟨t, (run_succ_of_next (M := core) hstep n).trans hrun, ht.trans hu⟩

/-- Settles O42: `ENC` of the four single-bit messages gives the rows of `G`, `SYN` of the seven flips the columns of
`H`, `LOC` of the eight syndromes the entries of `T`. -/
theorem theResponsesDetermineTheConstants : Obligations.TheResponsesDetermineTheConstants :=
  fun _ _ h => rom_eq_of_answerTo_eq fun i => h (encode i)

end Sys2Proof.Proofs

/-! SUPPORT and PROOFS. What fixes a response, runs as pairs of command and response, and the two nibbles of a byte;
then the theorems that settle the statements of spec/20_memory.md. -/

namespace Sys2Proof.Proofs

open Sys2Proof.Machine Sys2Proof.Laws

/-! ## The configuration fixes the constants, and a run pairs each command with its response (R30, R50) -/

/-- Two blocks built from the same `G` and `H` have the same table too, so the same constants (R30). -/
theorem rom_eq_of_built {x y : Rom} (hx : x.Built) (hy : y.Built) (hG : x.G = y.G) (hH : x.H = y.H) : x = y := by
  obtain ⟨-, hTx⟩ := hx
  obtain ⟨-, hTy⟩ := hy
  obtain ⟨G, H, T⟩ := x
  cases hG
  cases hH
  exact congrArg (Rom.mk y.G y.H) (hTx.trans hTy.symm)

/-- The observation of a whole run from a state with no response yet: each command beside its own response (R18). -/
theorem zip_responses_of_run {s t : State} (hs : s.responses = [])
    (h : Host.Core.run core s.commands.length s = .next t) :
    s.commands.zip t.responses = s.commands.map fun w => (w, respond s.rom w) := by
  cases (run_length_of_commands s.commands s rfl).symm.trans h
  rw [hs, List.nil_append]
  simpa using List.zip_map' (f := id) (g := respond s.rom) (l := s.commands)

/-! ## A byte and its two nibbles (R44, R150) -/

@[simp] theorem length_positions {w : Nat} (v : BitVec w) : (positions v).length = w := by
  simp [positions]

/-- The bits of two vectors side by side, the high one first (R11, R12). -/
theorem positions_append {m n : Nat} (u : BitVec m) (v : BitVec n) :
    positions (u ++ v) = positions u ++ positions v := by
  refine List.ext_getElem (by simp) fun i _ _ => ?_
  by_cases hm : i < m
  · simp [positions, bit, BitVec.getMsbD_append, hm]
  · simp [positions, bit, BitVec.getMsbD_append, List.getElem_append, hm]

theorem joinByte_splitByte (byte : BitVec 8) : joinByte (splitByte byte).1 (splitByte byte).2 = byte :=
  BitVec.extractLsb'_append_extractLsb' (w := 4) (len := 4)

theorem splitByte_fst_toNat (byte : BitVec 8) : (splitByte byte).1.toNat = byte.toNat / 16 := by
  have hbyte : byte.toNat / 16 < 16 := by have := byte.isLt; omega
  simp [splitByte, Nat.shiftRight_eq_div_pow, Nat.mod_eq_of_lt hbyte]

theorem splitByte_snd_toNat (byte : BitVec 8) : (splitByte byte).2.toNat = byte.toNat % 16 := by
  simp [splitByte]

/-- The positions of the two nibbles in order are the byte's own `w` of R44. -/
theorem positions_splitByte (byte : BitVec 8) :
    positions (splitByte byte).1 ++ positions (splitByte byte).2 = valueToBits byte.toNat 8 := by
  rw [← positions_append, ← positions_eq_valueToBits]
  exact congrArg positions (joinByte_splitByte byte)

/-! ## The statements of spec/20_memory.md -/

/-- Settles O38: both steps answer by `respond` of their own constants, and the configuration fixes those. -/
theorem theResponseDependsOnTheCommandAndTheConfigurationAlone :
    Obligations.TheResponseDependsOnTheCommandAndTheConfigurationAlone := by
  intro s t w x y hs ht hG hH hsw htw
  have hrom : s.rom = t.rom := rom_eq_of_built hs ht hG hH
  exact ⟨step_of_cons hsw, hrom ▸ step_of_cons htw⟩

/-- Settles O39: each run is its list of commands with every command paired with its own response. -/
theorem reorderingCommandsReordersResponses : Obligations.ReorderingCommandsReordersResponses := by
  intro s t s' t' hrom hs ht hperm hruns hrunt
  rw [zip_responses_of_run hs hruns, zip_responses_of_run ht hrunt, hrom]
  exact hperm.map _

/-- Settles O55: the byte is its two nibbles side by side, each of four positions. -/
theorem aBytesTwoBlocksRebuildIt : Obligations.ABytesTwoBlocksRebuildIt := by
  intro byte
  rw [← positions_splitByte]
  exact ⟨(List.take_left' (length_positions _)).symm, (List.drop_left' (length_positions _)).symm,
    splitByte_fst_toNat byte, splitByte_snd_toNat byte, joinByte_splitByte byte⟩

end Sys2Proof.Proofs

/-! SUPPORT and PROOFS. The decoder and the encoder as inverses, the response word and its seven fields, the fault a
command word raises, and the text of a command; then the theorems that settle the statements of spec/30_encoding.md. -/

namespace Sys2Proof.Proofs

open Sys2Proof.Machine Sys2Proof.Laws

/-! ## The decoder (R63 to R65, R69) -/

/-- The decoder undoes the encoder: each operand and each must-be-zero part is its own slice of the word (R64). -/
theorem decode_encode (i : Instr) : decode (encode i) = .ok i := by
  simp only [decode, opField_encode, aField_encode, bField_encode]
  cases i with
  | enc x m b =>
    have hx : (x ++ m).extractLsb' 4 3 = x := BitVec.extractLsb'_append_eq_left
    have hm : (x ++ m).extractLsb' 0 4 = m := BitVec.extractLsb'_append_eq_right
    exact congrArg₂ (fun x m => Except.ok (Instr.enc x m b)) hx hm
  | loc x syn b =>
    have hx : (x ++ syn).extractLsb' 3 4 = x := BitVec.extractLsb'_append_eq_left
    have hs : (x ++ syn).extractLsb' 0 3 = syn := BitVec.extractLsb'_append_eq_right
    exact congrArg₂ (fun x syn => Except.ok (Instr.loc x syn b)) hx hs
  | syn | cor | dec => rfl

/-- A word is the word of the instruction it decodes to, or is rejected by its reserved `op`. -/
theorem decode_cases (w : Command) :
    (∃ i, decode w = .ok i ∧ encode i = w) ∨
      (5 ≤ (opField w).toNat ∧ decode w = .error (.reservedOp (opField w))) := by
  cases h : decode w with
  | ok i => exact .inl ⟨i, rfl, encode_of_decode h⟩
  | error e =>
    unfold decode at h
    split at h <;> cases h
    case h_6 =>
      have hop : 5 ≤ (opField w).toNat := by
        simp only [imp_false] at *
        omega
      exact .inr ⟨hop, rfl⟩

theorem decode_of_five_le {w : Command} (h : 5 ≤ (opField w).toNat) :
    decode w = .error (.reservedOp (opField w)) := by
  obtain ⟨i, -, rfl⟩ | ⟨-, hdec⟩ := decode_cases w
  · rw [opField_encode] at h
    exact absurd (op_toNat_lt i) (Nat.not_lt.mpr h)
  · exact hdec

theorem exists_decode_of_lt_five {w : Command} (h : (opField w).toNat < 5) :
    ∃ i, decode w = .ok i ∧ encode i = w ∧ i.op = opField w := by
  obtain ⟨i, hdec, rfl⟩ | ⟨hop, -⟩ := decode_cases w
  · exact ⟨i, hdec, rfl, (opField_encode i).symm⟩
  · omega

/-! ## The opcode table (R65) -/

theorem encode_and_opMask (i : Instr) : encode i &&& opMask = matchWord i := by
  rw [encode_eq_fields, EncodeMatches.and_opMask, EncodeMatches.matchWord_eq]

/-- What a word has under the mask is its `op` field and nothing else. -/
theorem opField_eq_op_of_and_opMask {w : Command} {i : Instr} (h : w &&& opMask = matchWord i) : opField w = i.op := by
  rw [← append_fields w, EncodeMatches.and_opMask, EncodeMatches.matchWord_eq] at h
  simpa only [opField_append] using congrArg opField h

theorem op_eq_of_matchWord_eq {i j : Instr} (h : matchWord i = matchWord j) : i.op = j.op := by
  rw [← opField_encode i]
  exact opField_eq_op_of_and_opMask ((encode_and_opMask i).trans h)

/-! ## The response word (R66) -/

theorem faultOfCode_faultCode (f : Option Fault) : faultOfCode (faultCode f) = some f := by
  cases f with
  | none => rfl
  | some f => cases f <;> rfl

theorem faultCode_of_faultOfCode :
    ∀ {c : BitVec 2} {f : Option Fault}, faultOfCode c = some f → faultCode f = c := by decide

theorem faultOfCode_eq_none_iff : ∀ c : BitVec 2, faultOfCode c = none ↔ c = 3 := by decide

theorem ofBool_getLsbD_eq_extractLsb' {w : Nat} (v : BitVec w) (i : Nat) :
    BitVec.ofBool (v.getLsbD i) = v.extractLsb' i 1 := by
  apply BitVec.eq_of_getLsbD_eq
  intro j hj
  obtain rfl : j = 0 := by omega
  simp

/-- `RSP = {fault, res, data, err_det, syn, hit, pos}`, slice by slice. -/
theorem pack_slices (r : Response) :
    r.pack.extractLsb' 19 2 = faultCode r.fault ∧ r.pack.extractLsb' 12 7 = r.res ∧
      r.pack.extractLsb' 8 4 = r.data ∧ r.pack.extractLsb' 7 1 = BitVec.ofBool r.errDet ∧
      r.pack.extractLsb' 4 3 = r.syn ∧ r.pack.extractLsb' 3 1 = BitVec.ofBool r.hit ∧
      r.pack.extractLsb' 0 3 = r.pos := by
  have slice (start len : Nat) : r.pack.extractLsb' start len =
      BitVec.extractLsb' (n := 2 + 7 + 4 + 1 + 3 + 1 + 3) start len
        (faultCode r.fault ++ r.res ++ r.data ++ BitVec.ofBool r.errDet ++ r.syn ++ BitVec.ofBool r.hit ++ r.pos) := rfl
  simp (disch := decide) only [slice, BitVec.extractLsb'_append_eq_of_le, Nat.reduceSub,
    BitVec.extractLsb'_append_eq_right, BitVec.extractLsb'_eq_self, and_self]

theorem unpack_pack (r : Response) : unpack r.pack = some r := by
  obtain ⟨hfault, hres, hdata, herr, hsyn, hhit, hpos⟩ := pack_slices r
  rw [← ofBool_getLsbD_eq_extractLsb', BitVec.ofBool_eq_iff_eq] at herr hhit
  simp only [unpack, hfault, faultOfCode_faultCode, hres, hdata, herr, hsyn, hhit, hpos]

/-- The slices `unpack` reads lie side by side and are the whole word. -/
theorem pack_of_unpack {w : ResponseWord} {r : Response} (h : unpack w = some r) : r.pack = w := by
  unfold unpack at h
  split at h <;> cases h
  next f hf =>
    simp (disch := decide) only [Response.pack, faultCode_of_faultOfCode hf, ofBool_getLsbD_eq_extractLsb',
      BitVec.extractLsb'_append_extractLsb'_eq_extractLsb']
    exact BitVec.extractLsb'_eq_self

theorem unpack_eq_none_iff (w : ResponseWord) : unpack w = none ↔ w.extractLsb' 19 2 = 3 := by
  rw [← faultOfCode_eq_none_iff]
  unfold unpack
  split
  · next h => simp [h]
  · next h => simp [h]

theorem faultCode_ne_three (f : Option Fault) : faultCode f ≠ 3 := by
  intro h
  have hnone := (faultOfCode_eq_none_iff _).mpr h
  rw [faultOfCode_faultCode] at hnone
  cases hnone

/-! ## The fault of a command word (R69, R166, R170) -/

/-- A response with a fault is that fault's response, all other fields 0 (R170). -/
theorem respond_eq_faultResponse {rom : Rom} {w : Command} {f : Fault} (h : (respond rom w).fault = some f) :
    respond rom w = faultResponse f := by
  obtain ⟨hlegal, -⟩ := respond_legal rom w
  rw [hlegal (by simp [h]), h]
  rfl

/-- The only fault of an instruction is `ContractViolation` (R168). -/
theorem responseOf_fault (rom : Rom) (i : Instr) :
    (responseOf rom i).fault = if i.wellFormed then none else some .contractViolation := by
  unfold responseOf
  split
  · exact resultOf_fault rom i
  · rfl

/-- `IllegalOp` marks the reserved values of `op` (R69, R167). -/
theorem respond_fault_eq_illegalOp_iff (rom : Rom) (w : Command) :
    (respond rom w).fault = some .illegalOp ↔ 5 ≤ (opField w).toNat := by
  obtain ⟨i, -, rfl⟩ | ⟨hop, hdec⟩ := decode_cases w
  · rw [respond_encode, opField_encode]
    have hfault : (responseOf rom i).fault ≠ some .illegalOp := by
      rw [responseOf_fault]
      split <;> simp
    exact iff_of_false hfault (Nat.not_le.mpr (op_toNat_lt i))
  · rw [respond_of_decode_error rom hdec]
    exact iff_of_true rfl hop

/-- `mbz(op)` written out by the value of `op` (R64). -/
theorem and_mbzMask_ne_zero_iff (w : Command) (op : BitVec 3) :
    w &&& mbzMask op ≠ 0 ↔
      (op.toNat = 0 ∧ w &&& 0x0387F#17 ≠ 0) ∨ (op.toNat = 1 ∧ w &&& 0x0007F#17 ≠ 0) ∨
        (op.toNat = 2 ∧ w &&& 0x03C7F#17 ≠ 0) ∨ (op.toNat = 4 ∧ w &&& 0x0007F#17 ≠ 0) := by
  unfold mbzMask
  split
  case h_6 => simp_all
  all_goals simp [*]

/-- `ContractViolation` marks a bit of `mbz(op)` under a defined `op` (R168); a reserved `op` has none (R171). -/
theorem respond_fault_eq_contractViolation_iff (rom : Rom) (w : Command) :
    (respond rom w).fault = some .contractViolation ↔ w &&& mbzMask (opField w) ≠ 0 := by
  obtain ⟨i, -, rfl⟩ | ⟨hop, hdec⟩ := decode_cases w
  · rw [respond_encode, opField_encode, responseOf_fault, ne_eq, encode_and_mbzMask_eq_zero_iff]
    simp
  · rw [respond_of_decode_error rom hdec, and_mbzMask_ne_zero_iff]
    refine iff_of_false (by simp [faultResponse, rejectFault]) ?_
    rintro (⟨h, -⟩ | ⟨h, -⟩ | ⟨h, -⟩ | ⟨h, -⟩) <;> omega

/-! ## What `DEC` reports (R68) -/

theorem posField_le_six : ∀ p : Position, (posField p).toNat ≤ 6 := by decide

/-- The three outcomes of R131: nothing detected, an error located and flipped, an error not located. -/
theorem decResponse_cases (rom : Rom) (r : Vec7) :
    decResponse rom r = decResult (matvecH rom.H r) false false noPosition r ∨
      (∃ p, decResponse rom r = decResult (matvecH rom.H r) true true (posField p) (r ^^^ unit p)) ∨
      decResponse rom r = decResult (matvecH rom.H r) true false noPosition r := by
  by_cases hsyn : matvecH rom.H r = 0
  · exact .inl (if_pos hsyn)
  · cases hT : readTable rom.T (matvecH rom.H r) with
    | hit p => exact .inr (.inl ⟨p, by simp only [decResponse, if_neg hsyn, hT]⟩)
    | miss => exact .inr (.inr (by simp only [decResponse, if_neg hsyn, hT]))

/-- A built block locates every error it detects. -/
theorem decResponse_errDet_eq_hit {rom : Rom} (h : rom.Built) (r : Vec7) :
    (decResponse rom r).errDet = (decResponse rom r).hit := by
  have ⟨⟨hG, hGH, hH⟩, _⟩ := h
  obtain hr | ⟨c, p, hc, rfl⟩ := codeword_or_flipped_codeword hG hGH hH r
  · rw [decResponse_codeword h hr]; rfl
  · rw [decResponse_flipped_codeword h hc]; rfl

/-! ## Texts without blanks at their ends (R73) -/

/-- A text that is not empty and has no blank at either end. -/
structure Trimmed (cs : List Char) : Prop where
  ne_nil : cs ≠ []
  head : ∀ c ∈ cs.head?, isBlank c = false
  last : ∀ c ∈ cs.getLast?, isBlank c = false

theorem Trimmed.of_forall {cs : List Char} (hne : cs ≠ []) (h : ∀ c ∈ cs, isBlank c = false) : Trimmed cs :=
  ⟨hne, fun c hc => h c (List.mem_of_mem_head? hc), fun c hc => h c (List.mem_of_mem_getLast? hc)⟩

theorem Trimmed.append {xs ys : List Char} (hx : Trimmed xs) (zs : List Char) (hy : Trimmed ys) :
    Trimmed (xs ++ (zs ++ ys)) where
  ne_nil := by simp [hx.ne_nil]
  head := by rw [List.head?_append_of_ne_nil xs hx.ne_nil]; exact hx.head
  last := by
    rw [← List.append_assoc, List.getLast?_append_of_ne_nil _ hy.ne_nil]
    exact hy.last

theorem dropWhile_isBlank_eq_self {cs : List Char} (h : ∀ c ∈ cs.head?, isBlank c = false) :
    cs.dropWhile isBlank = cs := by
  cases cs with
  | nil => rfl
  | cons c cs => exact List.dropWhile_cons_of_neg (by simp [h c rfl])

theorem Trimmed.trim_eq {cs : List Char} (h : Trimmed cs) : trim cs = cs := by
  rw [trim, dropWhile_isBlank_eq_self h.head, dropWhile_isBlank_eq_self, List.reverse_reverse]
  rw [List.head?_reverse]
  exact h.last

theorem trim_space_cons (cs : List Char) : trim (' ' :: cs) = trim cs := rfl

/-! ## The text of an operand (R11, R73) -/

theorem mem_operandText {w : Nat} {v : BitVec w} {c : Char} (h : c ∈ operandText v) : c = '0' ∨ c = '1' := by
  obtain ⟨b, -, rfl⟩ := List.mem_map.mp h
  cases b
  · exact .inl rfl
  · exact .inr rfl

/-! No character of an operand ends it: none is a blank, a comma or the start of a comment. -/

theorem isBlank_of_mem_operandText {w : Nat} {v : BitVec w} {c : Char} (h : c ∈ operandText v) :
    isBlank c = false := by
  obtain rfl | rfl := mem_operandText h <;> rfl

theorem comma_not_mem_operandText {w : Nat} (v : BitVec w) : ',' ∉ operandText v :=
  fun h => absurd (mem_operandText h) (by decide)

theorem hash_not_mem_operandText {w : Nat} (v : BitVec w) : '#' ∉ operandText v :=
  fun h => absurd (mem_operandText h) (by decide)

theorem trimmed_operandText {w : Nat} (v : BitVec (w + 1)) : Trimmed (operandText v) :=
  .of_forall (List.ne_nil_of_length_pos (by simp [operandText])) fun _ => isBlank_of_mem_operandText

theorem bitsOfText_map (bits : List Bool) : bitsOfText (bits.map fun b => if b then '1' else '0') = some bits := by
  induction bits with
  | nil => rfl
  | cons b bits ih => cases b <;> simp [bitsOfText, ih]

theorem parseOperand_operandText {w : Nat} (v : BitVec w) : parseOperand w (operandText v) = some v := by
  obtain ⟨hvalue, -⟩ := fieldsCarryTheirVectors
  simp [parseOperand, operandText, bitsOfText_map, hvalue]

theorem parseTwoOperands_operandText (r k : Vec7) :
    parseTwoOperands (operandText r ++ ([',', ' '] ++ operandText k)) = some (r, k) := by
  have hcomma : ∀ c ∈ operandText r, (c != ',') = true :=
    fun c hc => bne_iff_ne.mpr fun h => comma_not_mem_operandText r (h ▸ hc)
  have hfirst : (operandText r ++ ([',', ' '] ++ operandText k)).takeWhile (· != ',') = operandText r := by
    rw [List.takeWhile_append_of_pos hcomma]
    exact List.append_nil _
  have hsecond : (operandText r ++ ([',', ' '] ++ operandText k)).dropWhile (· != ',') =
      ',' :: ' ' :: operandText k := by
    rw [List.dropWhile_append_of_pos hcomma]
    rfl
  simp only [parseTwoOperands, hfirst, hsecond, trim_space_cons, (trimmed_operandText _).trim_eq,
    parseOperand_operandText]

/-! ## The line of an instruction (R73) -/

/-- A line in the form of R73 is read as its mnemonic and its operand text. -/
theorem parseLine_words {mnemonic operands : List Char} (hm : mnemonic ≠ [])
    (hblank : ∀ c ∈ mnemonic, isBlank c = false) (hhash : '#' ∉ mnemonic) (ho : Trimmed operands)
    (hcomment : '#' ∉ operands) :
    parseLine (mnemonic ++ ([' '] ++ operands)) = parseWords mnemonic operands := by
  have hword : ∀ c ∈ mnemonic, (!isBlank c) = true := fun c hc => by simp [hblank c hc]
  have hstrip : stripComment (mnemonic ++ ([' '] ++ operands)) = mnemonic ++ ([' '] ++ operands) := by
    refine List.takeWhile_eq_self_iff.mpr fun c hc => bne_iff_ne.mpr ?_
    rintro rfl
    simp [hhash, hcomment] at hc
  have htrim := ((Trimmed.of_forall hm hblank).append [' '] ho).trim_eq
  have htake : (mnemonic ++ ([' '] ++ operands)).takeWhile (!isBlank ·) = mnemonic := by
    rw [List.takeWhile_append_of_pos hword]
    exact List.append_nil _
  have hdrop : (mnemonic ++ ([' '] ++ operands)).dropWhile (!isBlank ·) = ' ' :: operands := by
    rw [List.dropWhile_append_of_pos hword]
    rfl
  rw [parseLine, hstrip, htrim]
  cases mnemonic with
  | nil => exact absurd rfl hm
  | cons c rest =>
    rw [List.cons_append] at htake hdrop ⊢
    simp only [htake, hdrop, trim_space_cons, ho.trim_eq]

/-- The same for a mnemonic whose one operand is a vector. -/
theorem parseLine_operandText {w : Nat} {mnemonic : List Char} (line : BitVec (w + 1) → Line) (v : BitVec (w + 1))
    (hm : mnemonic ≠ []) (hblank : ∀ c ∈ mnemonic, isBlank c = false) (hhash : '#' ∉ mnemonic)
    (hwords : ∀ operands, parseWords mnemonic operands = (parseOperand (w + 1) operands).map line) :
    parseLine (mnemonic ++ ([' '] ++ operandText v)) = some (line v) := by
  rw [parseLine_words hm hblank hhash (trimmed_operandText v) (hash_not_mem_operandText v), hwords,
    parseOperand_operandText, Option.map_some]

theorem parseLine_instrText {i : Instr} (h : i.wellFormed = true) : parseLine (instrText i) = some (.command i) := by
  cases i with
  | enc x m b =>
    obtain ⟨rfl, rfl⟩ : x = 0 ∧ b = 0 := by simpa [Instr.wellFormed] using h
    exact parseLine_operandText (mnemonic := ['E', 'N', 'C']) (.command <| .enc 0 · 0) m (by simp) (by simp [isBlank])
      (by decide) fun _ => rfl
  | syn r b =>
    obtain rfl : b = 0 := by simpa [Instr.wellFormed] using h
    exact parseLine_operandText (mnemonic := ['S', 'Y', 'N']) (.command <| .syn · 0) r (by simp) (by simp [isBlank])
      (by decide) fun _ => rfl
  | loc x s b =>
    obtain ⟨rfl, rfl⟩ : x = 0 ∧ b = 0 := by simpa [Instr.wellFormed] using h
    exact parseLine_operandText (mnemonic := ['L', 'O', 'C']) (.command <| .loc 0 · 0) s (by simp) (by simp [isBlank])
      (by decide) fun _ => rfl
  | cor r k =>
    have hcomment : '#' ∉ operandText r ++ ([',', ' '] ++ operandText k) := by simp [hash_not_mem_operandText]
    have hwords := parseLine_words (mnemonic := ['C', 'O', 'R']) (by simp) (by simp [isBlank]) (by decide)
      ((trimmed_operandText r).append [',', ' '] (trimmed_operandText k)) hcomment
    rw [instrText, List.append_assoc, List.append_assoc]
    exact hwords.trans (congrArg (Option.map _) (parseTwoOperands_operandText r k))
  | dec r b =>
    obtain rfl : b = 0 := by simpa [Instr.wellFormed] using h
    exact parseLine_operandText (mnemonic := ['D', 'E', 'C']) (.command <| .dec · 0) r (by simp) (by simp [isBlank])
      (by decide) fun _ => rfl

/-! ## What the assembler can give (R73) -/

theorem wellFormed_of_parseWords {mnemonic operands : List Char} {i : Instr}
    (h : parseWords mnemonic operands = some (.command i)) : i.wellFormed = true := by
  unfold parseWords at h
  split_ifs at h
  all_goals
    obtain ⟨_, -, hline⟩ := Option.map_eq_some_iff.mp h
    cases hline
  all_goals rfl

theorem wellFormed_of_parseLine {text : List Char} {i : Instr} (h : parseLine text = some (.command i)) :
    i.wellFormed = true := by
  unfold parseLine at h
  split at h
  · cases h
  · exact wellFormed_of_parseWords h

/-! ## The statements of spec/30_encoding.md -/

/-- Settles O43, by the slices of an instruction's word. -/
theorem decodeOfEncodeIsTheInstruction : Obligations.DecodeOfEncodeIsTheInstruction := decode_encode

/-- Settles O28, by the three outcomes of R131; in a built block every vector is a codeword or one flip from one. -/
theorem decReportsOneOfThePatternsOfTheResultTuple :
    Obligations.DecReportsOneOfThePatternsOfTheResultTuple := by
  intro rom r
  dsimp only
  rw [answerTo_dec]
  refine ⟨?_, fun h => decResponse_errDet_eq_hit h r⟩
  obtain h | ⟨p, h⟩ | h := decResponse_cases rom r <;> rw [h]
  · exact .inl ⟨rfl, rfl, rfl, rfl⟩
  · exact .inr (.inl ⟨rfl, rfl, posField_le_six p, rfl⟩)
  · exact .inr (.inr ⟨rfl, rfl, rfl, rfl⟩)

/-- Settles O31: a word is an instruction's, with its must-be-zero bits, or has a reserved `op`. -/
theorem theFaultFieldClassifiesEveryCommandWord : Obligations.TheFaultFieldClassifiesEveryCommandWord := by
  intro rom w
  refine ⟨respond_fault_eq_illegalOp_iff rom w,
    (respond_fault_eq_contractViolation_iff rom w).trans (and_mbzMask_ne_zero_iff w (opField w)), ?_, ?_, ?_⟩
  · intro h
    rw [respond_eq_faultResponse h]
    rfl
  · intro h
    rw [respond_eq_faultResponse h]
    rfl
  · obtain ⟨hfault, -⟩ := pack_slices (respond rom w)
    rw [hfault]
    exact faultCode_ne_three _

/-- Settles O36. -/
theorem aStepAnswersRespond : Obligations.AStepAnswersRespond := fun _ _ _ => step_of_cons

/-- Settles O44, by the two cases of the decoder. -/
theorem decodeAcceptsExactlyTheFiveOperations : Obligations.DecodeAcceptsExactlyTheFiveOperations :=
  fun _ => ⟨exists_decode_of_lt_five, decode_of_five_le⟩

/-- Settles O45: under the mask a word has its `op` field alone, and `match` is that field. -/
theorem theOpcodeTableSelectsOneRow : Obligations.TheOpcodeTableSelectsOneRow := by
  refine ⟨fun w i h => ?_, fun w i h => ?_, fun i j => op_eq_of_matchWord_eq⟩
  · rw [← encode_of_decode h]
    exact encode_and_opMask i
  · have hop : opField w = i.op := opField_eq_op_of_and_opMask h
    obtain ⟨j, hdec, -, hj⟩ := exists_decode_of_lt_five (hop ▸ op_toNat_lt i)
    exact ⟨j, hdec, hj.trans hop⟩

/-- Settles O46, one constructor at a time. -/
theorem wellFormedIsTheMustBeZeroMask : Obligations.WellFormedIsTheMustBeZeroMask :=
  ⟨fun x m b => (encode_and_mbzMask_eq_zero_iff (.enc x m b)).symm,
    fun r b => (encode_and_mbzMask_eq_zero_iff (.syn r b)).symm,
    fun x s b => (encode_and_mbzMask_eq_zero_iff (.loc x s b)).symm,
    fun r k => ⟨rfl, (encode_and_mbzMask_eq_zero_iff (.cor r k)).mpr rfl⟩,
    fun r b => (encode_and_mbzMask_eq_zero_iff (.dec r b)).symm⟩

/-- Settles O48. -/
theorem responseWordsCarryExactlyTheirFields : Obligations.ResponseWordsCarryExactlyTheirFields :=
  ⟨unpack_pack, fun _ _ => pack_of_unpack, unpack_eq_none_iff⟩

/-- Settles O49: a well-formed instruction's response is its own result. -/
theorem assembledTextNeverViolatesTheContract : Obligations.AssembledTextNeverViolatesTheContract := by
  intro text i h
  have hwf := wellFormed_of_parseLine h
  exact ⟨hwf, fun s => ⟨responseOf s.rom i, exec_eq i s, (responseOf_fault_eq_none_iff s.rom i).mpr hwf⟩⟩

/-- Settles O50. -/
theorem assemblingTheLineOfAnInstructionGivesItBack : Obligations.AssemblingTheLineOfAnInstructionGivesItBack :=
  fun _ => parseLine_instrText

/-- Settles O34. -/
theorem aStepRunsTheDecodedInstruction : Obligations.AStepRunsTheDecodedInstruction := by
  intro s w rest i hw hdec
  simp only [step, fetch_of_cons hw, answerCommand, hdec]

/-- Settles O47: the first six are words of instructions, the last two have the reserved `op` 5 and 7. -/
theorem wordsWrittenOutDecodeToTheirInstructions : Obligations.WordsWrittenOutDecodeToTheirInstructions :=
  ⟨decode_encode (.enc 0 0b1011#4 0), decode_encode (.syn 0b1001010#7 0), decode_encode (.loc 0 0b011#3 0),
    decode_encode (.cor 0b1001010#7 0b0010000#7), decode_encode (.dec 0b1001010#7 0),
    decode_encode (.enc 0b001#3 0b1011#4 0), decode_of_five_le (w := 0b10111111111111111#17) (by decide),
    decode_of_five_le (w := 0b11100000000000000#17) (by decide)⟩

end Sys2Proof.Proofs

/-! SUPPORT and PROOFS. The result of `ENC` as the message times `G`, and the linearity of that product; then the
theorems that settle the statements of spec/40_encode.md. -/

namespace Sys2Proof.Proofs

open Sys2Proof.Machine Sys2Proof.Laws

/-! ## The message times `G` (R14, R90, R91) -/

/-- R91 (a): each position is a sum over the bits of the message, and `&&` distributes over `^^`. -/
theorem vecmatG_xor (G : GMatrix) (m n : Message) : vecmatG G (m ^^^ n) = vecmatG G m ^^^ vecmatG G n := by
  refine eq_of_bit_eq fun j => ?_
  simp only [bit_xor, bit_vecmatG, Bool.and_xor_distrib_right]
  simp only [Bool.xor_assoc, Bool.xor_left_comm]

theorem vecmatG_zero (G : GMatrix) : vecmatG G 0 = 0 := eq_of_bit_eq fun j => by simp

/-- R91 (c): the first four positions of a codeword give the message back. -/
theorem vecmatG_injective {G : GMatrix} (hG : W2 G) : Function.Injective (vecmatG G) :=
  Function.LeftInverse.injective (firstFour_vecmatG hG)

theorem exec_enc (m : Message) (s : State) : exec (.enc 0 m 0) s = .next (s.answer (encResponse s.rom m)) :=
  exec_eq (.enc 0 m 0) s

theorem answerTo_enc_res (rom : Rom) (m : Message) : (answerTo rom (.enc 0 m 0)).res = vecmatG rom.G m :=
  congrArg Response.res (answerTo_enc rom m)

/-! ## The statements of spec/40_encode.md -/

/-- Settles O9: the product is linear, W2 gives the message back, W3 makes every codeword's syndrome 000. -/
theorem encIsLinearSystematicAndInjective : Obligations.EncIsLinearSystematicAndInjective := by
  rintro rom ⟨⟨hG, hGH, -⟩, -⟩
  simp only [answerTo_enc_res]
  exact ⟨vecmatG_xor rom.G, vecmatG_zero rom.G, firstFour_vecmatG hG, fun _ _ h => vecmatG_injective hG h,
    matvecH_vecmatG hGH, vecmatG_single rom.G 0, vecmatG_single rom.G 1, vecmatG_single rom.G 2,
    vecmatG_single rom.G 3⟩

/-- Settles O8: the codeword is the message times `G`. -/
theorem encAnswersTheMessageTimesG : Obligations.EncAnswersTheMessageTimesG :=
  fun s m => ⟨vecmatG s.rom.G m, bit_vecmatG s.rom.G m, exec_enc m s⟩

/-- Settles O10: the product with the default `G`, evaluated on the 16 messages. -/
theorem encTableOfTheDefaultConfiguration : Obligations.EncTableOfTheDefaultConfiguration := by
  intro m
  rw [answerTo_enc_res]
  revert m
  decide

end Sys2Proof.Proofs

/-! SUPPORT and PROOFS. What flips do to the syndrome of a codeword, and what `err_det` reports; then the theorems that
settle the statements of spec/41_syndrome.md. -/

namespace Sys2Proof.Proofs

open Sys2Proof.Machine Sys2Proof.Laws

/-! ## The syndrome of a flipped codeword (R101) -/

section WellFormed

variable {G : GMatrix} {H : HMatrix} (hG : W2 G) (hGH : W3 G H) (hH : W4 H)

include hGH in
theorem matvecH_codeword_xor_unit {c : Vec7} (hc : ValidCodeword G c) (p : Position) :
    matvecH H (c ^^^ unit p) = colH H p := by
  obtain ⟨m, rfl⟩ := hc
  exact matvecH_vecmatG_xor_unit hGH m p

include hGH in
theorem matvecH_codeword_xor_two_units {c : Vec7} (hc : ValidCodeword G c) (p q : Position) :
    matvecH H (c ^^^ unit p ^^^ unit q) = colH H p ^^^ colH H q := by
  rw [matvecH_xor, matvecH_codeword_xor_unit hGH hc, matvecH_unit]

include hH in
/-- Two different columns sum to a third one: the sum is not 000, so it is a column, and neither summand is 000. -/
theorem exists_colH_eq_xor {p q : Position} (hpq : p ≠ q) :
    ∃ t, t ≠ p ∧ t ≠ q ∧ colH H p ^^^ colH H q = colH H t := by
  obtain ⟨t, ht⟩ := exists_colH_eq hH (colH_xor_ne_zero hH hpq)
  obtain ⟨-, hcol⟩ := hH
  refine ⟨t, ?_, ?_, ht.symm⟩
  · rintro rfl
    exact hcol q (xor_left_eq_self_iff.mp ht.symm)
  · rintro rfl
    exact hcol p (xor_right_eq_self_iff.mp ht.symm)

include hG hGH hH in
/-- Some three flips of a codeword end on a valid codeword: positions 0 and 1 and the one whose column is their sum. -/
theorem exists_three_flips_codeword {c : Vec7} (hc : ValidCodeword G c) :
    ∃ p q t : Position, p ≠ q ∧ q ≠ t ∧ p ≠ t ∧ ValidCodeword G (c ^^^ unit p ^^^ unit q ^^^ unit t) := by
  have h01 : (0 : Position) ≠ 1 := by decide
  obtain ⟨t, ht0, ht1, ht⟩ := exists_colH_eq_xor hH h01
  refine ⟨0, 1, t, h01, ht1.symm, ht0.symm, (matvecH_eq_zero_iff hG hGH hH).mp ?_⟩
  rw [matvecH_xor, matvecH_codeword_xor_two_units hGH hc, matvecH_unit, ht]
  exact BitVec.xor_self

end WellFormed

/-- Three flips, two of them at different positions, change a vector. -/
theorem xor_three_units_ne_self (c : Vec7) {p q t : Position} (hpq : p ≠ q) :
    c ^^^ unit p ^^^ unit q ^^^ unit t ≠ c := by
  have flips_ne_zero : ∀ p q t : Position, p ≠ q → unit p ^^^ (unit q ^^^ unit t) ≠ 0 := by decide
  rw [BitVec.xor_assoc, BitVec.xor_assoc, Ne, xor_left_eq_self_iff]
  exact flips_ne_zero p q t hpq

/-! ## What `SYN` and `DEC` report of the syndrome (R100, R102, R131) -/

theorem exec_syn (r : Vec7) (s : State) : exec (.syn r 0) s = .next (s.answer (synResponse s.rom r)) :=
  exec_eq (.syn r 0) s

theorem errDetOf_eq_decide (syn : Syndrome) : errDetOf syn = decide (syn ≠ 0) := by
  rw [Bool.eq_iff_iff, decide_eq_true_iff]
  exact bne_iff_ne

theorem answerTo_syn_syn (rom : Rom) (r : Vec7) : (answerTo rom (.syn r 0)).syn = matvecH rom.H r :=
  congrArg Response.syn (answerTo_syn rom r)

theorem decResponse_syn (rom : Rom) (r : Vec7) : (decResponse rom r).syn = matvecH rom.H r := by
  obtain h | ⟨p, h⟩ | h := decResponse_cases rom r <;> rw [h, decResult]

/-- `SYN` and `DEC` of one vector agree on `err_det`, in every block. -/
theorem decResponse_errDet (rom : Rom) (r : Vec7) : (decResponse rom r).errDet = (synResponse rom r).errDet := by
  obtain ⟨-, herr, -⟩ := decResponse_legal rom r
  rw [herr, decResponse_syn]
  rfl

section BuiltBlock

variable {rom : Rom} (h : rom.Built)

include h in
theorem synResponse_errDet_eq_false_iff (r : Vec7) : (synResponse rom r).errDet = false ↔ ValidCodeword rom.G r := by
  obtain ⟨⟨hG, hGH, hH⟩, -⟩ := h
  exact bne_eq_false_iff_eq.trans (matvecH_eq_zero_iff hG hGH hH)

include h in
theorem decResponse_errDet_eq_false_iff (r : Vec7) : (decResponse rom r).errDet = false ↔ ValidCodeword rom.G r := by
  rw [decResponse_errDet, synResponse_errDet_eq_false_iff h]

theorem decResponse_errDet_eq_true_of_ne_zero {r : Vec7} (hr : matvecH rom.H r ≠ 0) :
    (decResponse rom r).errDet = true := by
  rw [decResponse_errDet]
  exact bne_iff_ne.mpr hr

include h in
/-- The data of a valid codeword is the message it encodes, so another codeword has other data. -/
theorem decResponse_data_ne {m : Message} {c : Vec7} (hc : ValidCodeword rom.G c) (hne : c ≠ vecmatG rom.G m) :
    (decResponse rom c).data ≠ m := by
  have ⟨⟨hG, _, _⟩, _⟩ := h
  obtain ⟨n, rfl⟩ := hc
  rw [decResponse_codeword h ⟨n, rfl⟩]
  intro hm
  exact hne (congrArg (vecmatG rom.G) ((firstFour_vecmatG hG n).symm.trans hm))

end BuiltBlock

/-! ## The statements of spec/41_syndrome.md -/

/-- Settles O12: a codeword adds nothing to the syndrome, and the columns of `H` are all the non-zero syndromes. -/
theorem synIsZeroExactlyOnValidCodewords : Obligations.SynIsZeroExactlyOnValidCodewords := by
  rintro rom ⟨⟨hG, hGH, hH⟩, -⟩
  simp only [answerTo_syn_syn]
  refine ⟨matvecH_xor rom.H, fun _ => matvecH_eq_zero_iff hG hGH hH,
    fun c p hc => matvecH_codeword_xor_unit hGH hc p, fun c p q hc hpq => ?_⟩
  obtain ⟨t, htp, htq, ht⟩ := exists_colH_eq_xor hH hpq
  obtain ⟨hinj, -⟩ := hH
  exact ⟨t, htp, htq, (matvecH_codeword_xor_two_units hGH hc p q).trans ht, fun u => hinj u t⟩

/-- Settles O13: three flips whose columns sum to 000 end on another codeword; one column, or the sum of two, is never
000. -/
theorem errDetSaysOnlyWhetherTheVectorIsACodeword : Obligations.ErrDetSaysOnlyWhetherTheVectorIsACodeword := by
  intro rom h
  have ⟨⟨hG, hGH, hH⟩, _⟩ := h
  simp only [answerTo_syn, answerTo_dec]
  refine ⟨synResponse_errDet_eq_false_iff h, decResponse_errDet_eq_false_iff h, fun m => ?_, fun m p q hpq => ⟨?_, ?_⟩⟩
  · obtain ⟨p, q, t, hpq, hqt, hpt, hc⟩ := exists_three_flips_codeword hG hGH hH ⟨m, rfl⟩
    exact ⟨p, q, t, hpq, hqt, hpt, (decResponse_errDet_eq_false_iff h _).mpr hc,
      decResponse_data_ne h hc (xor_three_units_ne_self _ hpq)⟩
  · obtain ⟨-, hcol⟩ := hH
    apply decResponse_errDet_eq_true_of_ne_zero
    rw [matvecH_vecmatG_xor_unit hGH]
    exact hcol p
  · apply decResponse_errDet_eq_true_of_ne_zero
    rw [matvecH_codeword_xor_two_units hGH ⟨m, rfl⟩]
    exact colH_xor_ne_zero hH hpq

/-- Settles O11: the syndrome is `H` times the received vector. -/
theorem synAnswersHTimesTheReceivedVector : Obligations.SynAnswersHTimesTheReceivedVector := by
  refine fun s r => ⟨matvecH s.rom.H r, bit_matvecH s.rom.H r, ?_⟩
  rw [exec_syn, synResponse, errDetOf_eq_decide]
  rfl

end Sys2Proof.Proofs

/-! SUPPORT and PROOFS. What the table of a built block holds at each syndrome, and what `LOC` and `DEC` answer on a hit
and on a miss; then the theorems that settle the statements of spec/42_locate.md. -/

namespace Sys2Proof.Proofs

open Sys2Proof.Machine Sys2Proof.Laws

/-! ## The table of a built block (R23) -/

/-- No column of `H` is 000, so no turn of the loop of R23 records one there. -/
theorem readTable_buildTable_zero {H : HMatrix} (hH : W4 H) : readTable (buildTable H) 0 = .miss := by
  obtain ⟨-, hcol⟩ := hH
  simp only [buildTable, List.foldl, readTable_recordColumn, if_neg (hcol _), readTable_replicate_miss]

section BuiltBlock

variable {rom : Rom} (h : rom.Built)

include h in
theorem readTable_colH (p : Position) : readTable rom.T (colH rom.H p) = .hit p := by
  obtain ⟨⟨-, -, hH⟩, hT⟩ := h
  rw [hT, readTable_buildTable_colH hH]

include h in
/-- The entry at a syndrome: none at 000, and at a column of `H` the column's position. -/
theorem readTable_cases (syn : Syndrome) :
    (syn = 0 ∧ readTable rom.T syn = .miss) ∨ ∃ p, colH rom.H p = syn ∧ readTable rom.T syn = .hit p := by
  have ⟨⟨_, _, hH⟩, hT⟩ := h
  by_cases hsyn : syn = 0
  · exact .inl ⟨hsyn, by rw [hsyn, hT, readTable_buildTable_zero hH]⟩
  · obtain ⟨p, rfl⟩ := exists_colH_eq hH hsyn
    exact .inr ⟨p, rfl, readTable_colH h p⟩

include h in
theorem readTable_eq_miss_iff (syn : Syndrome) : readTable rom.T syn = .miss ↔ syn = 0 := by
  have ⟨⟨_, _, _, hcol⟩, _⟩ := h
  obtain ⟨hsyn, hT⟩ | ⟨p, rfl, hT⟩ := readTable_cases h syn
  · exact iff_of_true hT hsyn
  · exact iff_of_false (by rw [hT]; nofun) (hcol p)

include h in
/-- R112 (d). -/
theorem matvecH_maskOf_readTable (syn : Syndrome) :
    matvecH rom.H (maskOf (readTable rom.T syn)) = if hitOf (readTable rom.T syn) then syn else 0 := by
  obtain ⟨-, hT⟩ | ⟨p, rfl, hT⟩ := readTable_cases h syn <;> rw [hT]
  · exact matvecH_zero rom.H
  · exact matvecH_unit rom.H p

end BuiltBlock

/-! ## The fields of a table entry (R42) -/

theorem hitOf_eq_true_iff (t : TableEntry) : hitOf t = true ↔ t ≠ .miss := by
  cases t <;> simp [hitOf]

theorem posField_toNat : ∀ p : Position, (posField p).toNat = p.val := by decide

/-- R112 (c). -/
theorem weight_maskOf (t : TableEntry) : weight (maskOf t) = (hitOf t).toNat := by
  have weight_unit : ∀ p : Position, weight (unit p) = 1 := by decide
  cases t with
  | miss => decide
  | hit p => exact weight_unit p

/-! ## What `LOC` and `DEC` answer on a hit and on a miss (R110, R113, R131) -/

theorem exec_loc_of_readTable {s : State} {syn : Syndrome} {t : TableEntry} (ht : readTable s.rom.T syn = t) :
    exec (.loc 0 syn 0) s = .next (s.answer { res := maskOf t, hit := hitOf t, pos := posOf t }) :=
  ht ▸ exec_eq (.loc 0 syn 0) s

theorem exec_dec (r : Vec7) (s : State) : exec (.dec r 0) s = .next (s.answer (decResponse s.rom r)) :=
  exec_eq (.dec r 0) s

/-- The branch that no built block takes. -/
theorem decResponse_of_miss {rom : Rom} {r : Vec7} (hsyn : matvecH rom.H r ≠ 0)
    (hT : readTable rom.T (matvecH rom.H r) = .miss) :
    decResponse rom r = decResult (matvecH rom.H r) true false noPosition r := by
  simp only [decResponse, if_neg hsyn, hT]

/-! ## The statements of spec/42_locate.md -/

/-- Settles O15: a column of `H` has its position in the table, and the columns are all the non-zero syndromes. -/
theorem locInvertsTheColumnsOfH : Obligations.LocInvertsTheColumnsOfH := by
  intro rom h
  simp only [answerTo_loc, locResponse, readTable_colH h]
  exact ⟨fun p => ⟨rfl, posField_toNat p⟩,
    fun syn => (hitOf_eq_true_iff _).trans (not_congr (readTable_eq_miss_iff h syn)),
    fun _ => weight_maskOf _, matvecH_maskOf_readTable h⟩

/-- Settles O17: both operations read a miss as no position, and a built block has a position at every syndrome but
000. -/
theorem aMissIsAnsweredAndNeverCrashes : Obligations.AMissIsAnsweredAndNeverCrashes := by
  refine ⟨fun _ _ => exec_loc_of_readTable, fun s r hsyn hT => ?_, fun _ syn h => readTable_eq_miss_iff h syn⟩
  refine ⟨_, exec_dec r s, ?_⟩
  rw [decResponse_of_miss hsyn hT]
  exact ⟨rfl, rfl⟩

/-- Settles O14: the two cases are the two kinds of entry. -/
theorem locAnswersTheTableEntry : Obligations.LocAnswersTheTableEntry :=
  fun _ _ => ⟨fun _ => exec_loc_of_readTable, exec_loc_of_readTable⟩

/-- Settles O16: the table of the default `H`, evaluated at the 8 syndromes. -/
theorem locTableOfTheDefaultConfiguration : Obligations.LocTableOfTheDefaultConfiguration := by
  intro syn
  rw [answerTo_loc]
  revert syn
  decide

end Sys2Proof.Proofs

/-! SUPPORT and PROOFS. What `COR` answers, and what a flip or the mask of `LOC` does to the data and the syndrome; then
the theorems that settle the statements of spec/43_correct.md. -/

namespace Sys2Proof.Proofs

open Sys2Proof.Machine Sys2Proof.Laws

/-! ## What `COR` answers (R120) -/

theorem exec_cor (r k : Vec7) (s : State) : exec (.cor r k) s = .next (s.answer (corResponse r k)) :=
  exec_eq (.cor r k) s

theorem answerTo_cor (rom : Rom) (r k : Vec7) : answerTo rom (.cor r k) = corResponse r k :=
  respond_encode rom (.cor r k)

theorem answerTo_cor_res (rom : Rom) (r k : Vec7) : (answerTo rom (.cor r k)).res = r ^^^ k :=
  congrArg Response.res (answerTo_cor rom r k)

theorem answerTo_cor_data (rom : Rom) (r k : Vec7) : (answerTo rom (.cor r k)).data = firstFour (r ^^^ k) :=
  congrArg Response.data (answerTo_cor rom r k)

/-! ## What a flip and the mask of `LOC` do (R121) -/

theorem firstFour_unit_of_le_three : ∀ p : Position, p.val ≤ 3 → firstFour (unit p) = 0b1000#4 >>> p.val := by decide

theorem firstFour_unit_of_four_le : ∀ p : Position, 4 ≤ p.val → firstFour (unit p) = 0 := by decide

/-- R121 (c): on a hit the mask has the syndrome it was located by, and the two cancel. -/
theorem matvecH_xor_locResponse_res {rom : Rom} (h : rom.Built) {r : Vec7}
    (hhit : (locResponse rom (matvecH rom.H r)).hit = true) :
    matvecH rom.H (r ^^^ (locResponse rom (matvecH rom.H r)).res) = 0 := by
  have hmask : matvecH rom.H (locResponse rom (matvecH rom.H r)).res = matvecH rom.H r :=
    (matvecH_maskOf_readTable h _).trans (if_pos hhit)
  rw [matvecH_xor, hmask]
  exact BitVec.xor_self

/-! ## The statements of spec/43_correct.md -/

/-- Settles O19: XOR cancels itself, and the first four positions and the syndrome are both linear in it. -/
theorem corFlipsExactlyTheMask : Obligations.CorFlipsExactlyTheMask := by
  simp only [Obligations.CorFlipsExactlyTheMask, answerTo_cor_res, answerTo_cor_data, answerTo_loc, firstFour_xor]
  refine ⟨fun _ r k => ⟨xor_xor_cancel_comm r k, xor_cancel_right r k⟩, fun _ r p => ⟨fun hp => ?_, fun hp => ?_⟩,
    fun rom => matvecH_xor rom.H, fun _ h _ => matvecH_xor_locResponse_res h⟩
  · rw [firstFour_unit_of_le_three p hp]
  · rw [firstFour_unit_of_four_le p hp]
    exact BitVec.xor_zero

/-- Settles O18: the result is the XOR, the data its first four positions. -/
theorem corAnswersTheXorWithTheMask : Obligations.CorAnswersTheXorWithTheMask :=
  fun s r k => ⟨r ^^^ k, firstFour (r ^^^ k), bit_xor r k, bit_firstFour (r ^^^ k), exec_cor r k s⟩

end Sys2Proof.Proofs

/-! SUPPORT and PROOFS. What `DEC` answers in each of its branches, and that in a built block it ends on the one valid
codeword within one flip; then the theorems that settle the statements of spec/44_decode.md. -/

namespace Sys2Proof.Proofs

open Sys2Proof.Machine Sys2Proof.Laws

/-! ## The branches of `DEC` in any block (R131) -/

theorem decResponse_of_syndrome_zero {rom : Rom} {r : Vec7} (hsyn : matvecH rom.H r = 0) :
    decResponse rom r = decResult 0 false false noPosition r := by
  simp only [decResponse, hsyn, if_true]

theorem decResponse_of_hit {rom : Rom} {r : Vec7} {p : Position} (hsyn : matvecH rom.H r ≠ 0)
    (hT : readTable rom.T (matvecH rom.H r) = .hit p) :
    decResponse rom r = decResult (matvecH rom.H r) true true (posField p) (r ^^^ unit p) := by
  simp only [decResponse, if_neg hsyn, hT]

theorem decResponse_data (rom : Rom) (r : Vec7) : (decResponse rom r).data = firstFour (decResponse rom r).res := by
  obtain h | ⟨p, h⟩ | h := decResponse_cases rom r <;> rw [h, decResult]

theorem exec_dec_of_decResponse {s : State} {r : Vec7} {rsp : Response} (h : decResponse s.rom r = rsp) :
    exec (.dec r 0) s = .next (s.answer rsp) :=
  h ▸ exec_dec r s

/-- A syndrome is `H` times the vector when each of its bits is the row's dot product (R14). -/
theorem matvecH_eq_of_bit_eq_dot {H : HMatrix} {r : Vec7} {syn : Syndrome}
    (h : ∀ i, bit syn i = dot (H.get i) r) : matvecH H r = syn :=
  eq_of_bit_eq fun i => (bit_matvecH H r i).trans (h i).symm

/-- The source's `error_position` of a located error is its position (R42, R68). -/
theorem errorPosition_decResult_hit (syn : Syndrome) (p : Position) (v : Vec7) :
    (decResult syn true true (posField p) v).errorPosition = (p.val : Int) :=
  congrArg Nat.cast (posField_toNat p)

theorem decodeResult_decResult_hit (syn : Syndrome) (p : Position) (v : Vec7) :
    (decResult syn true true (posField p) v).decodeResult =
      some { decodedData := firstFour v, errorDetected := true, syndrome := syn, errorPosition := (p.val : Int) } := by
  rw [← errorPosition_decResult_hit syn p v]
  rfl

/-! ## Flips and distance (R13, R19) -/

/-- A hit entry whose field `pos` is `p` has the mask of `p` (R42). -/
theorem maskOf_eq_unit_of_pos {t : TableEntry} {p : Position} (hhit : hitOf t = true)
    (hp : p.val = (posOf t).toNat) : maskOf t = unit p := by
  cases t with
  | miss => cases hhit
  | hit q => rw [Fin.ext (hp.trans (posField_toNat q))]; rfl

/-- Two vectors at distance at most 1 are equal or one flip apart. -/
theorem eq_or_eq_xor_unit_of_distance_le_one {c r : Vec7} (h : distance c r ≤ 1) : r = c ∨ ∃ p, r = c ^^^ unit p := by
  have light : ∀ v : Vec7, weight v ≤ 1 → v = 0 ∨ ∃ p, v = unit p := by decide
  obtain h0 | ⟨p, hp⟩ := light (c ^^^ r) h
  · exact .inl (BitVec.xor_eq_zero_iff.mp h0).symm
  · exact .inr ⟨p, by rw [← hp, ← BitVec.xor_assoc, BitVec.xor_self, BitVec.zero_xor]⟩

theorem distance_xor_three_units (c : Vec7) {p q t : Position} (hpq : p ≠ q) (htp : t ≠ p) (htq : t ≠ q) :
    distance (c ^^^ unit p ^^^ unit q ^^^ unit t) c = 3 := by
  have three : ∀ p q t : Position, p ≠ q → t ≠ p → t ≠ q → weight (unit p ^^^ (unit q ^^^ unit t)) = 3 := by decide
  rw [distance, BitVec.xor_assoc c, BitVec.xor_assoc c, xor_xor_cancel_comm, BitVec.xor_assoc]
  exact three p q t hpq htp htq

/-! ## `DEC` in a built block (R132 to R136) -/

section BuiltBlock

variable {rom : Rom} (h : rom.Built)

include h in
/-- R132: `DEC` reports the syndrome and the table's entry at it, and flips by the entry's mask. -/
theorem decResponse_eq_of_entry (r : Vec7) :
    decResponse rom r = decResult (matvecH rom.H r) (errDetOf (matvecH rom.H r))
      (hitOf (readTable rom.T (matvecH rom.H r))) (posOf (readTable rom.T (matvecH rom.H r)))
      (r ^^^ maskOf (readTable rom.T (matvecH rom.H r))) := by
  have ⟨⟨_, _, _, hcol⟩, _⟩ := h
  obtain ⟨hsyn, hT⟩ | ⟨p, hp, hT⟩ := readTable_cases h (matvecH rom.H r)
  · rw [decResponse_of_syndrome_zero hsyn, hT, hsyn, maskOf]
    exact congrArg (decResult 0 false false noPosition) BitVec.xor_zero.symm
  · have hsyn : matvecH rom.H r ≠ 0 := hp ▸ hcol p
    rw [decResponse_of_hit hsyn hT, hT, errDetOf, bne_iff_ne.mpr hsyn]
    rfl

include h in
theorem distance_decResponse_res (r : Vec7) : distance (decResponse rom r).res r = (decResponse rom r).hit.toNat := by
  rw [decResponse_eq_of_entry h]
  exact (congrArg weight (xor_xor_cancel_comm r _)).trans (weight_maskOf _)

include h in
theorem decResponse_res_of_hit {r : Vec7} {p : Position} (hhit : (decResponse rom r).hit = true)
    (hp : p.val = (decResponse rom r).pos.toNat) : (decResponse rom r).res = r ^^^ unit p := by
  rw [decResponse_eq_of_entry h] at hhit hp ⊢
  exact congrArg (r ^^^ ·) (maskOf_eq_unit_of_pos hhit hp)

include h in
/-- The vector `DEC` ends with is the codeword of the data it returns (R133). -/
theorem vecmatG_decResponse_data (r : Vec7) : vecmatG rom.G (decResponse rom r).data = (decResponse rom r).res := by
  have ⟨⟨hG, hGH, hH⟩, _⟩ := h
  obtain ⟨m, rfl⟩ | ⟨_, p, ⟨m, rfl⟩, rfl⟩ := codeword_or_flipped_codeword hG hGH hH r
  · rw [decResponse_codeword h ⟨m, rfl⟩]
    exact congrArg (vecmatG rom.G) (firstFour_vecmatG hG m)
  · rw [decResponse_flipped_codeword h ⟨m, rfl⟩]
    exact congrArg (vecmatG rom.G) (firstFour_vecmatG hG m)

include h in
theorem validCodeword_decResponse_res (r : Vec7) : ValidCodeword rom.G (decResponse rom r).res :=
  ⟨_, vecmatG_decResponse_data h r⟩

include h in
/-- R134: a valid codeword within one flip of the vector is the one `DEC` returns. -/
theorem decResponse_res_of_distance_le_one {c r : Vec7} (hc : ValidCodeword rom.G c) (hd : distance c r ≤ 1) :
    (decResponse rom r).res = c := by
  obtain rfl | ⟨p, rfl⟩ := eq_or_eq_xor_unit_of_distance_le_one hd
  · rw [decResponse_codeword h hc, decResult]
  · rw [decResponse_flipped_codeword h hc, decResult]

include h in
/-- Two flips of a codeword are answered as one flip at the position whose column is the sum of theirs (R136). -/
theorem decResponse_of_two_flips {c : Vec7} (hc : ValidCodeword rom.G c) {p q t : Position}
    (ht : colH rom.H p ^^^ colH rom.H q = colH rom.H t) :
    decResponse rom (c ^^^ unit p ^^^ unit q) =
      decResult (colH rom.H t) true true (posField t) (c ^^^ unit p ^^^ unit q ^^^ unit t) := by
  have ⟨⟨_, hGH, _, hcol⟩, _⟩ := h
  have hsyn := (matvecH_codeword_xor_two_units hGH hc p q).trans ht
  rw [decResponse_of_hit (hsyn ▸ hcol t) (hsyn ▸ readTable_colH h t), hsyn]

end BuiltBlock

/-! ## The statements of spec/44_decode.md -/

/-- Settles O20: the three cases are the branches of the decoder. -/
theorem decAnswersSyndromePositionAndCorrectedVector : Obligations.DecAnswersSyndromePositionAndCorrectedVector := by
  intro s r syn hbits
  obtain rfl := matvecH_eq_of_bit_eq_dot hbits
  exact ⟨fun hsyn => exec_dec_of_decResponse (decResponse_of_syndrome_zero hsyn),
    fun _ hsyn hT => exec_dec_of_decResponse (decResponse_of_hit hsyn hT),
    fun hsyn hT => exec_dec_of_decResponse (decResponse_of_miss hsyn hT)⟩

/-- Settles O21: the three branches again, read as the tuple; in a built block every syndrome but 000 is a column. -/
theorem decIsTheSourcesDecode : Obligations.DecIsTheSourcesDecode := by
  simp only [Obligations.DecIsTheSourcesDecode, answerTo_dec]
  refine ⟨fun rom r hsyn => ?_, fun rom r h hsyn => ?_, fun rom r hsyn hT => ?_⟩
  · rw [decResponse_of_syndrome_zero hsyn]
    rfl
  · obtain ⟨p, hp, hT⟩ := (readTable_cases h (matvecH rom.H r)).resolve_left fun h0 => hsyn h0.left
    refine ⟨p, hp, hT, ?_⟩
    rw [decResponse_of_hit hsyn hT, decodeResult_decResult_hit]
  · rw [decResponse_of_miss hsyn hT]
    rfl

/-- Settles O22: all three stages, and `DEC`, go by the table's entry at the syndrome. -/
theorem decIsTheMergeOfItsThreeStages : Obligations.DecIsTheMergeOfItsThreeStages := by
  intro rom r h
  simp only [answerTo_dec, answerTo_syn, answerTo_loc, answerTo_cor]
  exact decResponse_eq_of_entry h r

/-- Settles O23: the flip is the mask of the table's entry, and the vector it gives encodes the data. -/
theorem decFlipsAtMostOnePositionAndEndsOnACodeword : Obligations.DecFlipsAtMostOnePositionAndEndsOnACodeword := by
  intro rom r h
  have ⟨⟨hG, hGH, hH⟩, _⟩ := h
  simp only [answerTo_dec]
  exact ⟨distance_decResponse_res h r, fun _ => decResponse_res_of_hit h, (decResponse_errDet_eq_hit h r).symm,
    (matvecH_eq_zero_iff hG hGH hH).mpr (validCodeword_decResponse_res h r), vecmatG_decResponse_data h r⟩

/-- Settles O24: `DEC` flips at most one position, and any valid codeword that near is its result. -/
theorem decReturnsTheNearestCodeword : Obligations.DecReturnsTheNearestCodeword := by
  intro rom r h
  simp only [answerTo_dec]
  refine ⟨⟨validCodeword_decResponse_res h r, ?_⟩, fun c hc hd => ?_, fun c hc hne => ?_⟩
  · rw [distance_decResponse_res h]
    exact Bool.toNat_le _
  · have hres := decResponse_res_of_distance_le_one h hc hd
    exact ⟨hres, (decResponse_data rom r).trans (congrArg firstFour hres)⟩
  · by_contra hlt
    exact hne (decResponse_res_of_distance_le_one h hc (by omega)).symm

/-- Settles O25: the decodes of a codeword and of a codeword with one flip. -/
theorem roundTripAndSingleErrorCorrection : Obligations.RoundTripAndSingleErrorCorrection := by
  intro rom m h
  have ⟨⟨hG, _, _⟩, _⟩ := h
  have hdata := firstFour_vecmatG hG m
  simp only [answerTo_dec, answerTo_enc_res]
  refine ⟨?_, fun p => ?_⟩
  · rw [decResponse_codeword h ⟨m, rfl⟩]
    exact ⟨rfl, hdata, rfl, rfl, rfl⟩
  · rw [decResponse_flipped_codeword h ⟨m, rfl⟩]
    exact ⟨rfl, hdata, rfl, errorPosition_decResult_hit _ p _, rfl, rfl⟩

/-- Settles O26: two columns sum to a third, so `DEC` flips a third position and ends on another codeword, whose data is
another message. -/
theorem twoFlipsAreSilentlyMiscorrected : Obligations.TwoFlipsAreSilentlyMiscorrected := by
  intro rom m p q h hpq
  have ⟨⟨_, _, hH⟩, _⟩ := h
  obtain ⟨t, htp, htq, ht⟩ := exists_colH_eq_xor hH hpq
  have hdec := decResponse_of_two_flips h ⟨m, rfl⟩ ht
  have hvalid := validCodeword_decResponse_res h (vecmatG rom.G m ^^^ unit p ^^^ unit q)
  have hcode := vecmatG_decResponse_data h (vecmatG rom.G m ^^^ unit p ^^^ unit q)
  simp only [answerTo_dec]
  rw [hdec] at hvalid hcode ⊢
  refine ⟨t, htp, htq, ht.symm, rfl, rfl, rfl, posField_toNat t, rfl, hvalid,
    distance_xor_three_units _ hpq htp htq, fun hm => ?_⟩
  exact xor_three_units_ne_self _ hpq (hcode.symm.trans (congrArg (vecmatG rom.G) hm))

/-- Settles O27: the result of a decode is a valid codeword, and `DEC` returns a codeword as it is. -/
theorem decIsIdempotentOnItsOwnResult : Obligations.DecIsIdempotentOnItsOwnResult := by
  intro rom r h
  simp only [answerTo_dec]
  rw [decResponse_codeword h (validCodeword_decResponse_res h r)]
  exact ⟨rfl, (decResponse_data rom r).symm, rfl, rfl, rfl⟩

end Sys2Proof.Proofs

/-! SUPPORT and PROOFS. The bits of a value by position, the value of a sequence of bits as a weighted sum, and that
each conversion undoes the other; then the theorems that settle the statements of spec/45_conversions.md. -/

namespace Sys2Proof.Proofs

open Sys2Proof.Machine

/-! ## `value_to_bits` position by position (R145) -/

@[simp] theorem length_valueToBits (value width : Nat) : (valueToBits value width).length = width := by
  simp [valueToBits]

theorem getElem?_valueToBits {value width i : Nat} (hi : i < width) :
    (valueToBits value width)[i]? = some (decide (value / 2 ^ (width - 1 - i) % 2 = 1)) := by
  simp [valueToBits, hi, beq_eq_decide]

/-! ## The round trips (R147) -/

/-- By induction from the right: the last bit is the value mod 2, the bits before it are those of the value halved. -/
theorem valueToBits_bitsToValue (bits : List Bool) : valueToBits (bitsToValue bits) bits.length = bits := by
  induction bits using List.reverseRecOn with
  | nil => rfl
  | append_singleton bits b ih =>
    have hhalf : (2 * bitsToValue bits + b.toNat) / 2 = bitsToValue bits := by have := b.toNat_lt; omega
    have hlast : ((2 * bitsToValue bits + b.toNat) % 2 == 1) = b := by cases b <;> simp
    rw [List.length_append, List.length_singleton, valueToBits_succ, bitsToValue_append_singleton, hhalf, hlast, ih]

/-- The bits of a value are the bits of what they give back, the value reduced modulo `2^width`. -/
theorem valueToBits_mod_two_pow (value width : Nat) :
    valueToBits (value % 2 ^ width) width = valueToBits value width := by
  have hback := valueToBits_bitsToValue (valueToBits value width)
  rwa [length_valueToBits, bitsToValue_valueToBits] at hback

/-! ## `bits_to_value` as a number (R146) -/

/-- The two round trips together leave the value as it is, reduced modulo `2^W`. -/
theorem bitsToValue_lt_two_pow (bits : List Bool) : bitsToValue bits < 2 ^ bits.length := by
  have hmod := bitsToValue_valueToBits (bitsToValue bits) bits.length
  rw [valueToBits_bitsToValue] at hmod
  exact hmod ▸ Nat.mod_lt _ (Nat.two_pow_pos _)

/-- The bit at position `i` of a sequence times its weight, `v⟨i⟩ * 2^(W-1-i)` (R146). -/
def weightedBit (bits : List Bool) (i : Nat) : Nat := (bits.getD i false).toNat * 2 ^ (bits.length - 1 - i)

/-- A bit added at the end doubles the weight of every bit before it. -/
theorem weightedBit_append_singleton_of_lt {bits : List Bool} (b : Bool) {i : Nat} (hi : i < bits.length) :
    weightedBit (bits ++ [b]) i = 2 * weightedBit bits i := by
  have hexp : bits.length + 1 - 1 - i = bits.length - 1 - i + 1 := by omega
  rw [weightedBit, weightedBit, List.getD_append _ _ _ _ hi, List.length_append, List.length_singleton, hexp, pow_succ']
  exact Nat.mul_left_comm ..

theorem weightedBit_append_singleton_length (bits : List Bool) (b : Bool) :
    weightedBit (bits ++ [b]) bits.length = b.toNat := by
  simp [weightedBit]

theorem bitsToValue_eq_sum_weightedBit (bits : List Bool) :
    bitsToValue bits = ((List.range bits.length).map (weightedBit bits)).sum := by
  induction bits using List.reverseRecOn with
  | nil => rfl
  | append_singleton bits b ih =>
    have hdouble : (List.range bits.length).map (weightedBit (bits ++ [b])) =
        (List.range bits.length).map fun i => 2 * weightedBit bits i :=
      List.map_congr_left fun _ hi => weightedBit_append_singleton_of_lt b (List.mem_range.mp hi)
    rw [bitsToValue_append_singleton, ih, List.length_append, List.length_singleton, List.range_succ, List.map_append,
      hdouble, List.sum_append, List.sum_map_mul_left, List.map_singleton, weightedBit_append_singleton_length,
      List.sum_singleton]

/-! ## The statements of spec/45_conversions.md -/

/-- Settles O53: the first round trip halves the value, the second drops the last bit. -/
theorem conversionsRoundTrip : Obligations.ConversionsRoundTrip := ⟨bitsToValue_valueToBits, valueToBits_bitsToValue⟩

/-- Settles O51: truncation is the first round trip followed by the second. -/
theorem valueToBitsIsMostSignificantFirstAndTruncates :
    Obligations.ValueToBitsIsMostSignificantFirstAndTruncates :=
  ⟨fun value width => ⟨length_valueToBits value width, fun _ => getElem?_valueToBits,
    (valueToBits_mod_two_pow value width).symm⟩, fun _ => rfl, by decide⟩

/-- Settles O52: the sum by induction from the right, each added bit doubling the weights before it. -/
theorem bitsToValueIsTheWeightedSum : Obligations.BitsToValueIsTheWeightedSum :=
  ⟨fun bits => ⟨bitsToValue_lt_two_pow bits, bitsToValue_eq_sum_weightedBit bits⟩, rfl, by decide⟩

end Sys2Proof.Proofs

/-! SUPPORT and PROOFS. What the channel does to a vector, and what `DEC` answers to a codeword that came through it;
then the theorems that settle the statements of spec/46_channel.md. -/

namespace Sys2Proof.Proofs

open Sys2Proof.Machine Sys2Proof.Laws

/-! ## The channel (R156, R157) -/

/-- R158 (a). -/
theorem distance_noise (c : Vec7) (flip : Bool) (p : Position) : distance (noise c flip p) c = flip.toNat := by
  cases flip with
  | false => exact (congrArg weight BitVec.xor_self).trans (by decide)
  | true => exact (congrArg weight (xor_xor_cancel_comm c (unit p))).trans (weight_maskOf (.hit p))

theorem bit_noise (c : Vec7) (flip : Bool) (p i : Position) :
    bit (noise c flip p) i = (bit c i ^^ (flip && decide (i = p))) := by
  cases flip <;> simp [noise, bit_unit]

theorem distance_simulateNoise {Source : Type} (d : NoiseDraw Source) (src : Source) (q : Probability) (c : Vec7) :
    distance (simulateNoise d src q c).1 c = (d.draw src q).1.toNat :=
  distance_noise c _ _

theorem simulateNoise_of_not_flip {Source : Type} {d : NoiseDraw Source} {src : Source} {q : Probability}
    (h : (d.draw src q).1 = false) (c : Vec7) : (simulateNoise d src q c).1 = c := by
  simp [simulateNoise, noise, h]

/-! ## `DEC` of what the channel returns (R158) -/

/-- R158 (b): `DEC` finds the flip the channel drew, if any, and ends on the codeword that was sent. -/
theorem decResponse_noise {rom : Rom} (h : rom.Built) {c : Vec7} (hc : ValidCodeword rom.G c) (flip : Bool)
    (p : Position) : ∃ syn pos, decResponse rom (noise c flip p) = decResult syn flip flip pos c ∧
      (flip = true → pos.toNat = p.val) := by
  cases flip with
  | false => exact ⟨0, noPosition, decResponse_codeword h hc, nofun⟩
  | true => exact ⟨colH rom.H p, posField p, decResponse_flipped_codeword h hc p, fun _ => posField_toNat p⟩

/-- The block's answer to the command `transmit` makes of a response is the decode of its vector as the channel returns
it (R17). -/
theorem respond_transmit (rom : Rom) (sent : Response) (flip : Bool) (p : Position) :
    respond rom (transmit sent flip p) = decResponse rom (noise sent.res flip p) :=
  answerTo_dec rom _

/-! ## The statements of spec/46_channel.md -/

/-- Settles O57: the distance is the draw `flip`, which the two end points fix. -/
theorem theChannelAtProbabilityZeroAndOne : Obligations.TheChannelAtProbabilityZeroAndOne := by
  intro Source d src q c
  refine ⟨?_, fun hq => ?_, fun hq => ?_⟩
  · rw [distance_simulateNoise]
    exact Bool.toNat_le _
  · exact simulateNoise_of_not_flip (d.flipsNeverAtZero src q hq) c
  · rw [distance_simulateNoise, d.flipsAlwaysAtOne src q hq, Bool.toNat_true]

/-- Settles O58: the encode answers with a valid codeword, and the step after it with the decode of what the channel
returned. -/
theorem whateverTheChannelDrawsTheDataComesBack : Obligations.WhateverTheChannelDrawsTheDataComesBack := by
  intro s m rest flip p h hs
  have ⟨⟨hG, _, _⟩, _⟩ := h
  have henc : respond s.rom (encode (.enc 0 m 0)) = encResponse s.rom m := answerTo_enc s.rom m
  obtain ⟨syn, pos, hdec, hpos⟩ := decResponse_noise h ⟨m, rfl⟩ flip p
  have hgot := (respond_transmit s.rom (encResponse s.rom m) flip p).trans hdec
  refine ⟨_, _, encResponse s.rom m, decResult syn flip flip pos (vecmatG s.rom.G m), step_of_cons hs, ?_,
    step_of_cons rfl, ?_, rfl, firstFour_vecmatG hG m, rfl, rfl, rfl, hpos⟩
  · rw [henc]
  · exact congrArg (fun got => _ ++ [got]) hgot

/-- Settles O56: the distance and the bits of what the channel returns, for each draw. -/
theorem theChannelFlipsAtMostOnePosition : Obligations.TheChannelFlipsAtMostOnePosition :=
  fun c flip p => ⟨distance_noise c flip p, bit_noise c flip p⟩

end Sys2Proof.Proofs

/-! SUPPORT and PROOFS. Which command words are answered without a fault and which fault the others raise, and what the
table of R23 holds at an index that is no column; then the theorems that settle the statements of spec/60_exceptions.md
and spec/70_reset_and_hazards.md. -/

namespace Sys2Proof.Proofs

open Sys2Proof.Machine Sys2Proof.Laws

/-! ## Which words raise a fault (R166 to R168) -/

/-- An operation with a 1 in a must-be-zero bit computes nothing (R168). -/
theorem exec_of_not_wellFormed {i : Instr} (h : ¬ i.wellFormed = true) (s : State) :
    exec i s = .next (s.answer (faultResponse .contractViolation)) := by
  rw [exec_eq, responseOf, if_neg h]

theorem respond_of_five_le (rom : Rom) {w : Command} (h : 5 ≤ (opField w).toNat) :
    respond rom w = faultResponse .illegalOp :=
  respond_of_decode_error rom (decode_of_five_le h)

/-- A word is answered without a fault exactly when it keeps the contract: a defined operation with clear must-be-zero
bits (R166). -/
theorem respond_fault_eq_none_iff (rom : Rom) (w : Command) :
    (respond rom w).fault = none ↔ ∃ i : Instr, decode w = .ok i ∧ i.wellFormed = true := by
  obtain ⟨i, hdec, rfl⟩ | ⟨hop, hdec⟩ := decode_cases w
  · rw [respond_encode, responseOf_fault_eq_none_iff, hdec]
    simp
  · rw [respond_of_five_le rom hop, hdec]
    simp [faultResponse]

/-! ## The table away from the columns of `H` (R23) -/

/-- No turn of the loop of R23 records a position at an index that is no column, whatever `H` is. -/
theorem readTable_buildTable_of_forall_colH_ne {H : HMatrix} {syn : Syndrome} (h : ∀ i : Position, colH H i ≠ syn) :
    readTable (buildTable H) syn = .miss := by
  simp only [buildTable, List.foldl, readTable_recordColumn, if_neg (h _), readTable_replicate_miss]

/-! ## The statements of spec/60_exceptions.md -/

/-- Settles O32: the run adds the response of each of its commands and no other, and each word's own fault decides. -/
theorem aRunIsSafeExactlyWhenItsCommandsKeepTheContract :
    Obligations.ARunIsSafeExactlyWhenItsCommandsKeepTheContract := by
  intro s t h
  cases (aRunAnswersEveryCommandInOrder s).symm.trans h
  simp only [State.Safe, List.forall_mem_append, List.forall_mem_map, respond_fault_eq_none_iff]

/-- Settles O29: with a 1 in a must-be-zero bit none of the four instructions is well-formed. -/
theorem aMustBeZeroBitRaisesContractViolation : Obligations.AMustBeZeroBitRaisesContractViolation := by
  refine fun s => ⟨fun x m b h => exec_of_not_wellFormed ?_ s, fun r b h => exec_of_not_wellFormed ?_ s,
    fun x syn b h => exec_of_not_wellFormed ?_ s, fun r b h => exec_of_not_wellFormed ?_ s⟩
  · simpa [Instr.wellFormed, imp_iff_not_or] using h
  · simpa [Instr.wellFormed] using h
  · simpa [Instr.wellFormed, imp_iff_not_or] using h
  · simpa [Instr.wellFormed] using h

/-- Settles O30: the step answers with the fault response, no operand bit being read. -/
theorem aReservedOpRaisesIllegalOp : Obligations.AReservedOpRaisesIllegalOp := by
  intro s w rest hw hop
  rw [step_of_cons hw, respond_of_five_le s.rom hop]
  rfl

/-! ## The statements of spec/70_reset_and_hazards.md -/

/-- Settles O4: the loop of R23 leaves each column's position at its column, the columns being distinct, and no position
elsewhere. -/
theorem constructionBuildsWellFormedBlocksOnly : Obligations.ConstructionBuildsWellFormedBlocksOnly := by
  refine fun c => ⟨fun hc => ?_, construct_of_not_wf⟩
  have ⟨_, _, hH⟩ := hc
  exact ⟨State.ofConfig c, construct_of_wf hc, rfl, rfl, readTable_buildTable_colH hH,
    fun _ => readTable_buildTable_of_forall_colH_ne, rfl, rfl, inv_ofConfig hc⟩

end Sys2Proof.Proofs
